-- ==== Sys2Proof/Word.lean ====
section
/-! DEFINITION. The word and byte types of the block: registers and weights are 32-bit words
(spec/10_state.md R21, R48), samples are bytes (spec/20_memory.md R60). -/

namespace Sys2Proof

/-- A register, a weight or a command word: 32 bits (R21, R48, R93). -/
abbrev Word := BitVec 32

/-- One sample, one byte of `PMEM` (R60). -/
abbrev Byte := BitVec 8

end Sys2Proof
end

