-- ==== Sys2Proof/Syntax.lean ====
section
/-! DEFINITION. The 33 rows of spec/opcode_table.json as one inductive type, the encoded forms that
carry them (spec/30_encoding.md R90 to R95), and the events of the machine's agents. -/

namespace Sys2Proof

/-- One constructor per row of the opcode table (R99). -/
inductive Instr where
  -- format CMDW: the word written to CMD (R94)
  | nop
  | start
  | clear
  | sreset
  -- format RX, reads (R110)
  | rdId
  | rdCap
  | rdCtrl
  | rdStatus
  | rdCmd
  | rdWidth
  | rdHeight
  | rdKsize
  | rdSrcBase
  | rdDstBase
  | rdKaddr
  | rdKdata
  -- format RX, writes (R111)
  | wrCtrl (data : Word)
  | wrCmd (data : Word)
  | wrWidth (data : Word)
  | wrHeight (data : Word)
  | wrKsize (data : Word)
  | wrSrcBase (data : Word)
  | wrDstBase (data : Word)
  | wrKaddr (data : Word)
  | wrKdata (data : Word)
  -- format UOP: the engine's micro-operations (R95)
  | idle
  | pad
  | mac
  | out
  | fill
  | red
  -- format PX: the host's pixel accesses (R92)
  | prd (addr : BitVec 32)
  | pwr (addr : BitVec 32) (data : Byte)
  deriving DecidableEq, Repr

/-- An encoded instruction: one of the formats of R90, with its fields as the format lays them out. -/
inductive Packet where
  /-- `RX`: the 5-bit header (bit 4 `we`, bits 3:0 `widx`) and `wdata` (R91). -/
  | rx (header : BitVec 5) (wdata : Word)
  /-- `PX`: `kind` (1 write, 0 read), `addr`, `data` (R92). -/
  | px (kind : BitVec 1) (addr : BitVec 32) (data : Byte)
  /-- `CMDW`: the word written to `CMD` (R93). -/
  | cmdw (word : Word)
  /-- `UOP`: the 3-bit `PHASE` code (R95). -/
  | uop (code : BitVec 3)
  deriving DecidableEq, Repr

/-- Why a packet is no instruction of the table. -/
inductive Reject where
  /-- A read of one of the unmapped words 12 to 15 (R23): it has no row. -/
  | unmappedRead (widx : BitVec 4)
  /-- A write of `ID`, `CAP`, `STATUS` or an unmapped word (R113): it has no row. -/
  | ignoredWrite (widx : BitVec 4)
  /-- A command word other than 0, 1, 2, 3 (R100). -/
  | illegalCommand (word : Word)
  /-- `PHASE` codes 6 and 7, never reached (R47). -/
  | unusedPhase (code : BitVec 3)
  deriving DecidableEq, Repr

/-- One move of an agent or of the environment (R14). -/
inductive Event where
  /-- The host performs a register transaction (R91). -/
  | rx (header : BitVec 5) (wdata : Word)
  /-- The host performs a pixel-memory access (R92). -/
  | px (kind : BitVec 1) (addr : BitVec 32) (data : Byte)
  /-- The host writes a command word to `CMD`: the pseudo-operation `CMD` of R103. -/
  | cmdw (word : Word)
  /-- The engine has its turn (R200). -/
  | engine
  /-- The environment asserts `rst` (R275). -/
  | rst
  deriving DecidableEq, Repr

end Sys2Proof
end

