-- ==== Sys2Proof/Decode.lean ====
section
/-! DEFINITION. The decoder, total on every packet and rejecting by name, the encoder, and the reading
of a word of spec/opcode_table.json as a packet. Encodings: spec/30_encoding.md R91 to R95. -/

namespace Sys2Proof

/-- A read transaction by its word index (R91, R112). -/
def decodeRead (widx : BitVec 4) : Except Reject Instr :=
  match widx.toNat with
  | 0 => .ok .rdId
  | 1 => .ok .rdCap
  | 2 => .ok .rdCtrl
  | 3 => .ok .rdStatus
  | 4 => .ok .rdCmd
  | 5 => .ok .rdWidth
  | 6 => .ok .rdHeight
  | 7 => .ok .rdKsize
  | 8 => .ok .rdSrcBase
  | 9 => .ok .rdDstBase
  | 10 => .ok .rdKaddr
  | 11 => .ok .rdKdata
  | _ => .error (.unmappedRead widx)

/-- A write transaction by its word index (R91, R120); words 0, 1, 3 and 12 to 15 are ignored (R113). -/
def decodeWrite (widx : BitVec 4) (wdata : Word) : Except Reject Instr :=
  match widx.toNat with
  | 2 => .ok (.wrCtrl wdata)
  | 4 => .ok (.wrCmd wdata)
  | 5 => .ok (.wrWidth wdata)
  | 6 => .ok (.wrHeight wdata)
  | 7 => .ok (.wrKsize wdata)
  | 8 => .ok (.wrSrcBase wdata)
  | 9 => .ok (.wrDstBase wdata)
  | 10 => .ok (.wrKaddr wdata)
  | 11 => .ok (.wrKdata wdata)
  | _ => .error (.ignoredWrite widx)

/-- Format `RX`: header bit 4 is `we`, header bits 3:0 are `widx` (R91). -/
def decodeRx (header : BitVec 5) (wdata : Word) : Except Reject Instr :=
  if header.getLsbD 4 then decodeWrite (header.extractLsb' 0 4) wdata
  else decodeRead (header.extractLsb' 0 4)

/-- Format `PX`: `kind` 1 writes, `kind` 0 reads (R92). -/
def decodePx (kind : BitVec 1) (addr : BitVec 32) (data : Byte) : Except Reject Instr :=
  if kind.getLsbD 0 then .ok (.pwr addr data) else .ok (.prd addr)

/-- Format `CMDW`: the whole word selects the command (R94). -/
def decodeCmd (word : Word) : Except Reject Instr :=
  match word.toNat with
  | 0 => .ok .nop
  | 1 => .ok .start
  | 2 => .ok .clear
  | 3 => .ok .sreset
  | _ => .error (.illegalCommand word)

/-- Format `UOP`: the `PHASE` code selects the micro-operation (R95). -/
def decodeUop (code : BitVec 3) : Except Reject Instr :=
  match code.toNat with
  | 0 => .ok .idle
  | 1 => .ok .pad
  | 2 => .ok .mac
  | 3 => .ok .out
  | 4 => .ok .fill
  | 5 => .ok .red
  | _ => .error (.unusedPhase code)

/-- The decoder: every packet is an instruction or is rejected by name. -/
def decode : Packet → Except Reject Instr
  | .rx header wdata => decodeRx header wdata
  | .px kind addr data => decodePx kind addr data
  | .cmdw word => decodeCmd word
  | .uop code => decodeUop code

/-- The encoder. A read carries no data word of meaning (R91), and a `HostPRead` no byte (R92): both
are encoded as 0 (DEDUCED, log entry 15). -/
def encode : Instr → Packet
  | .nop => .cmdw 0x00000000#32
  | .start => .cmdw 0x00000001#32
  | .clear => .cmdw 0x00000002#32
  | .sreset => .cmdw 0x00000003#32
  | .rdId => .rx 0b00000#5 0#32
  | .rdCap => .rx 0b00001#5 0#32
  | .rdCtrl => .rx 0b00010#5 0#32
  | .rdStatus => .rx 0b00011#5 0#32
  | .rdCmd => .rx 0b00100#5 0#32
  | .rdWidth => .rx 0b00101#5 0#32
  | .rdHeight => .rx 0b00110#5 0#32
  | .rdKsize => .rx 0b00111#5 0#32
  | .rdSrcBase => .rx 0b01000#5 0#32
  | .rdDstBase => .rx 0b01001#5 0#32
  | .rdKaddr => .rx 0b01010#5 0#32
  | .rdKdata => .rx 0b01011#5 0#32
  | .wrCtrl data => .rx 0b10010#5 data
  | .wrCmd data => .rx 0b10100#5 data
  | .wrWidth data => .rx 0b10101#5 data
  | .wrHeight data => .rx 0b10110#5 data
  | .wrKsize data => .rx 0b10111#5 data
  | .wrSrcBase data => .rx 0b11000#5 data
  | .wrDstBase data => .rx 0b11001#5 data
  | .wrKaddr data => .rx 0b11010#5 data
  | .wrKdata data => .rx 0b11011#5 data
  | .idle => .uop 0b000#3
  | .pad => .uop 0b001#3
  | .mac => .uop 0b010#3
  | .out => .uop 0b011#3
  | .fill => .uop 0b100#3
  | .red => .uop 0b101#3
  | .prd addr => .px 0#1 addr 0#8
  | .pwr addr data => .px 1#1 addr data

/-- The packet a word of the opcode table stands for, by the number of bits it is given in. The table
gives an `RX` row its 5-bit header, a `PX` row its 1-bit kind, a `UOP` row its 3-bit code and a `CMDW`
row its whole word; every bit above is 0. In whole bytes the first three are one byte alike, and a
one-byte word is read as an `RX` header (DESIGN CHOICE, log entry 8). -/
def tablePacket (nbits w : Nat) : Option Packet :=
  match nbits with
  | 1 => if w < 2 then some (.px (BitVec.ofNat 1 w) 0#32 0#8) else none
  | 41 => some (.px (BitVec.ofNat 1 w) (BitVec.ofNat 32 (w / 2)) (BitVec.ofNat 8 (w / 2 ^ 33)))
  | 48 =>
    if w % 256 < 2 then
      some (.px (BitVec.ofNat 1 w) (BitVec.ofNat 32 (w / 256)) (BitVec.ofNat 8 (w / 2 ^ 40)))
    else none
  | 3 => if w < 8 then some (.uop (BitVec.ofNat 3 w)) else none
  | 32 => if w < 2 ^ 32 then some (.cmdw (BitVec.ofNat 32 w)) else none
  | 37 => some (.rx (BitVec.ofNat 5 w) (BitVec.ofNat 32 (w / 32)))
  | _ =>
    if w % 256 < 32 then some (.rx (BitVec.ofNat 5 w) (BitVec.ofNat 32 (w / 256))) else none

/-- The instruction the decoder reads from a word of the opcode table, numbered as the table does. -/
def decodeTableWord (nbits w : Nat) : Option Instr :=
  match tablePacket nbits w with
  | none => none
  | some p =>
    match decode p with
    | .ok i => some i
    | .error _ => none

end Sys2Proof
end

