-- ==== Sys2Proof/Config.lean ====
section
/-! DEFINITION. The parameters of the block (spec/00_scope.md R6), its constants, and the free values
that stand for what the spec leaves unspecified (spec/93_implementation_defined.md U1, U2). -/

namespace Sys2Proof

/-- The parameters R6 leaves open, the ones the model takes as arguments (U14). `State.cfg` holds them;
`Config.parameters` is the whole table of R6. -/
structure Config where
  /-- `PMEM_BYTES`, from 1 to 2^32. -/
  pmemBytes : Nat
  /-- `REG_BASE`, where the platform places the 64-byte register block: any value (D2). A number without
  a bound, since the spec gives it no width (DESIGN CHOICE, log entry 13). -/
  regBase : Nat
  deriving DecidableEq, Repr

/-- The default of R6, `PMEM_BYTES` = 2^32, and `REG_BASE` = 0, for which R6 has no default (DESIGN
CHOICE, log entry 13). -/
def Config.default : Config := { pmemBytes := 2 ^ 32, regBase := 0 }

/-- The range R6 allows: 1 ≤ `PMEM_BYTES` ≤ 2^32, and any `REG_BASE`. -/
def Config.wellFormed (cfg : Config) : Bool :=
  decide (1 ≤ cfg.pmemBytes) && decide (cfg.pmemBytes ≤ 2 ^ 32)

/-- `ID`, the ASCII bytes C, O, N, V (R33). -/
def Config.idValue : Word := 0x434F4E56#32

/-- `CAP`: `KMAX` = 101 in bits 7:0, `FMT` = 1 in bits 11:8 (R34). -/
def Config.capValue : Word := 0x00000165#32

/-- `KMAX`, the largest accepted kernel side (R6). -/
def Config.kmax : Nat := 101

/-- `KMEM_DEPTH` = 101², the number of weight entries (R6, R48). -/
def Config.kmemDepth : Nat := 10201

/-- `MAXDIM`, the largest W and H (R6): the fields are 16 bits wide. -/
def Config.maxDim : Nat := 65535

/-- The kernel shape of R6: square, side K odd, K = 2r + 1. -/
inductive KernelShape where
  | squareOdd
  deriving DecidableEq, Repr

/-- The border policy of R6. -/
inductive BorderPolicy where
  | edgeReplication
  deriving DecidableEq, Repr

/-- `FMT`, the format of weights, products and accumulator (R6). -/
inductive NumberFormat where
  | binary32
  deriving DecidableEq, Repr

/-- The rounding `ROUND` and `CAST` name (R6): to nearest, ties to even. -/
inductive Rounding where
  | nearestTiesToEven
  deriving DecidableEq, Repr

/-- The parameters of R6 as one record, in the order of its table. -/
structure Parameters where
  /-- `SAMPLE_BITS`. -/
  sampleBits : Nat
  /-- `CHANNELS`, the values of C. -/
  channels : List Nat
  kernelShape : KernelShape
  borderPolicy : BorderPolicy
  /-- `KMAX`. -/
  kmax : Nat
  /-- `KMEM_DEPTH`. -/
  kmemDepth : Nat
  /-- `MAXDIM`. -/
  maxDim : Nat
  /-- `FMT`. -/
  fmt : NumberFormat
  /-- `FUSED`. -/
  fused : Bool
  /-- `ROUND`. -/
  round : Rounding
  /-- `CAST`. -/
  cast : Rounding
  /-- `REG_WORD`. -/
  regWord : Nat
  /-- `ADDR_BITS`. -/
  addrBits : Nat
  /-- `PMEM_BYTES`. -/
  pmemBytes : Nat
  /-- `REG_BASE`. -/
  regBase : Nat
  /-- The `ID` value. -/
  idValue : Word
  /-- The `CAP` value. -/
  capValue : Word
  deriving DecidableEq, Repr

/-- All parameters of the block (R6): the open ones from `cfg`, the others at the value R6 fixes, which
the types and constants of the model have. -/
def Config.parameters (cfg : Config) : Parameters :=
  { sampleBits := 8
    channels := [1, 3]
    kernelShape := .squareOdd
    borderPolicy := .edgeReplication
    kmax := Config.kmax
    kmemDepth := Config.kmemDepth
    maxDim := Config.maxDim
    fmt := .binary32
    fused := false
    round := .nearestTiesToEven
    cast := .nearestTiesToEven
    regWord := 32
    addrBits := 32
    pmemBytes := cfg.pmemBytes
    regBase := cfg.regBase
    idValue := Config.idValue
    capValue := Config.capValue }

/-- Free value: what byte `addr` of `PMEM` holds at power-on (U2: the initial memory is an argument
of the model). DESIGN CHOICE, log entry 5. -/
opaque Config.pmemPowerOn : Nat → Byte

/-- Free value: what entry `n` of `KMEM` holds after the reset numbered `epoch`, until it is written
(U1: an arbitrary function fixed at reset). DESIGN CHOICE, log entry 6. -/
opaque Config.kmemAfterReset : (epoch n : Nat) → Word

/-- Free value: what entry `n` of `WIN` holds after the reset numbered `epoch`, until it is written
(U2). DESIGN CHOICE, log entry 6. -/
opaque Config.winAfterReset : (epoch n : Nat) → Byte

end Sys2Proof
end

