-- ==== Sys2Proof/Machine/State.lean ====
section
/-! DEFINITION. The state of the machine as plain data (spec/10_state.md R20), the reasons a step can
stop, and the state after reset (R55). -/

namespace Sys2Proof.Machine

/-- `CTRL` (R35); reserved bits are not stored (R22). -/
structure Ctrl where
  /-- Bit 0, interrupt enable. -/
  ie : Bool
  /-- Bit 1: C = 3 when set, C = 1 when clear. -/
  rgb : Bool
  /-- Bit 2: the window strategy when set, the direct one when clear. -/
  strat : Bool
  deriving DecidableEq, Repr

/-- `STATUS` (R36); reserved bits are not stored (R22). -/
structure Status where
  /-- Bit 0 (R39). -/
  busy : Bool
  /-- Bit 1 (R40). -/
  done : Bool
  /-- Bit 2 (R41). -/
  err : Bool
  /-- Bit 3, a NaN was converted (R42). -/
  nv : Bool
  /-- Bit 4, a write was dropped while busy (R43). -/
  wign : Bool
  /-- Bits 11:8 (R41, R241). -/
  errcode : BitVec 4
  deriving DecidableEq, Repr

/-- `PHASE`: the six codes a run reaches (R47). -/
inductive Phase where
  | idle
  | pad
  | mac
  | out
  | fill
  | red
  deriving DecidableEq, Repr

/-- The sequencer position, of the next micro-operation (R45). -/
structure Seq where
  phase : Phase
  /-- Output row. -/
  j : BitVec 16
  /-- Output column. -/
  i : BitVec 16
  /-- Channel. -/
  ch : BitVec 2
  /-- First kernel index, the column offset. -/
  a : BitVec 7
  /-- Second kernel index, the row offset. -/
  b : BitVec 7
  deriving DecidableEq, Repr

/-- A binary32 value (R155). Every finite binary32 value is an integer multiple of 2^−149, so
`fin neg mag` is the value ± `mag` · 2^−149; a zero keeps its sign. NaN is one value (R161, U5;
DEDUCED, log entry 7). -/
inductive F32 where
  | nan
  | inf (neg : Bool)
  | fin (neg : Bool) (mag : Nat)
  deriving DecidableEq, Repr

/-- What a read gives back to the host: `rdata` of an `RD32` (R91), the byte of a `HostPRead` (R92). -/
inductive Reply where
  | word (w : Word)
  | byte (b : Byte)
  deriving DecidableEq, Repr

/-- The whole state: the block's, the pixel memory it shares with the host (R20), and four fields of
the model's own (`cfg`, `epoch`, `reply`, `events`; DESIGN CHOICE, log
entries 1, 3, 4, 6). -/
structure State where
  /-- The platform's parameters (R6); no step changes them. -/
  cfg : Config
  ctrl : Ctrl
  status : Status
  /-- `WIDTH.W` (R24). -/
  width : BitVec 16
  /-- `HEIGHT.H` (R25). -/
  height : BitVec 16
  /-- `KSIZE.K` (R26). -/
  ksize : BitVec 8
  /-- `SRC_BASE` (R27). -/
  srcBase : BitVec 32
  /-- `DST_BASE` (R28). -/
  dstBase : BitVec 32
  /-- `KADDR.IDX` (R29). -/
  kaddr : BitVec 14
  /-- `KMEM`, the entries that differ from the free value of the last reset (R48, U1). -/
  kmem : List (Nat × Word)
  /-- `seq` (R45). -/
  seq : Seq
  /-- `ACC` (R49). -/
  acc : F32
  /-- `S`, the sample latch (R50). -/
  sample : Byte
  /-- `WIN`, the entries that differ from the free value of the last reset (R51, U2). -/
  win : List (Nat × Byte)
  /-- `PMEM`, the bytes that differ from the free power-on value (R53, U2). -/
  pmem : List Host.Cell
  /-- How many `rst` events there have been; 0 at reset (DESIGN CHOICE, log entry 6). -/
  epoch : Nat
  /-- The last value a read returned to the host, if there was one; none at reset (DESIGN CHOICE, log
  entry 3). -/
  reply : Option Reply
  /-- The moves still to come, first one first; once it is empty the engine alone moves. -/
  events : List Event
  deriving DecidableEq, Repr

/-- Why a step stops. A state that satisfies the invariant of Sys2Proof/Safety.lean raises none. -/
inductive Fault where
  /-- Raised by `PAD`, `FILL` and `OUT` for an address at or above `PMEM_BYTES`, where `MemRead` and
  `MemWrite` are not defined (R9; DESIGN CHOICE, log entry 12). Safe. -/
  | engineAddress
  /-- Raised by `MAC` and `RED` for a weight index above 10200, where `KMEM` has no entry (R8). Safe. -/
  | weightIndex
  /-- Raised by `FILL` and `RED` for an index outside the 101 × 101 × 3 entries of `WIN` (R51). Safe. -/
  | windowIndex
  /-- Raised by the step for a `PHASE` code without a micro-operation, which is stuck (U6). Safe; no
  value of `Phase` has such a code. -/
  | unusedPhase
  deriving DecidableEq, Repr

/-- Why a step has no meaning. -/
inductive Refusal where
  /-- Raised by an arm of `exec` for an instruction without a meaning yet. Safe; no arm is one now. -/
  | notModelled (mnemonic : String)
  /-- Raised by `PRD` and `PWR` for an address at or above `PMEM_BYTES`: no transaction of the model,
  "the platform decides what it does; a model refuses it" (R63). Safe. -/
  | hostAddress
  deriving DecidableEq, Repr

/-- `STATUS` = 0 (R55). -/
def Status.zero : Status :=
  { busy := false, done := false, err := false, nv := false, wign := false, errcode := 0#4 }

/-- `CTRL` = 0 (R55). -/
def Ctrl.zero : Ctrl := { ie := false, rgb := false, strat := false }

/-- `seq` = (`IDLE`, 0, 0, 0, 0, 0) (R55). -/
def Seq.zero : Seq := { phase := .idle, j := 0#16, i := 0#16, ch := 0#2, a := 0#7, b := 0#7 }

/-- +0, the pattern 0x00000000. -/
def F32.zero : F32 := .fin false 0

/-- The machine right after reset (R55), with nothing written to any memory since power-on. -/
def State.reset : State :=
  { cfg := Config.default
    ctrl := Ctrl.zero
    status := Status.zero
    width := 0#16
    height := 0#16
    ksize := 0#8
    srcBase := 0#32
    dstBase := 0#32
    kaddr := 0#14
    kmem := []
    seq := Seq.zero
    acc := F32.zero
    sample := 0#8
    win := []
    pmem := []
    epoch := 0
    reply := none
    events := [] }

end Sys2Proof.Machine
end

