-- ==== Sys2Proof/Machine/Float.lean ====
section
/-! DEFINITION. Binary32 arithmetic as spec/42_mac.md R155 to R165 define it, and the conversion to a
sample of spec/43_output.md R186, R187. A value is ± `mag` · 2^−149, so every operation is exact over
the natural numbers until its one rounding. -/

namespace Sys2Proof.Machine

/-- The value of a `W32` pattern (R96, R97). A normal (2^23 + F) · 2^(E − 150) is
(2^23 + F) · 2^(E − 1) units of 2^−149. -/
def F32.ofBits (p : Word) : F32 :=
  let s := p.getLsbD 31
  let e := (p.extractLsb' 23 8).toNat
  let f := (p.extractLsb' 0 23).toNat
  if e = 255 then (if f = 0 then .inf s else .nan)
  else if e = 0 then .fin s f
  else .fin s ((2 ^ 23 + f) * 2 ^ (e - 1))

/-- 2^128 in units of 2^−149, that is 2^277: the magnitude at which rounding gives infinity (R159). -/
def F32.limit : Nat := 2 ^ 200 * 2 ^ 77

/-- Whether a value is one of the set of binary32 values (R155): M · 2^q with M < 2^24, and magnitude
below 2^128. -/
def F32.isBinary32 : F32 → Bool
  | .nan => true
  | .inf _ => true
  | .fin _ mag => decide (mag < F32.limit) && decide (mag % 2 ^ (mag.log2 - 23) = 0)

/-- `rne(n / d)`: the nearest integer, the even one when halfway (R156). -/
def rne (n d : Nat) : Nat :=
  let q := n / d
  let r := n % d
  if 2 * r < d then q else if d < 2 * r then q + 1 else q + q % 2

/-- The rounded magnitude of m = `n` · 2^−298, in units of 2^−149 and not yet limited (R159): the
spacing g is 2^−149 below 2^−126, which is `n` < 2^172, and 2^(e − 23) with e = floor(log2 m) above.
In units of 2^−298, g is 2^149 or 2^(log2 `n` − 23). -/
def roundMag (n : Nat) : Nat :=
  let t := if n < 2 ^ 172 then 149 else n.log2 - 23
  rne n (2 ^ t) * 2 ^ (t - 149)

/-- `round32` of ± `n` · 2^−298 (R159): infinity from 2^128 up. -/
def round32 (neg : Bool) (n : Nat) : F32 :=
  if F32.limit ≤ roundMag n then .inf neg else .fin neg (roundMag n)

/-- `u8_to_f32(s)`, exact (R160). -/
def u8ToF32 (s : Byte) : F32 := .fin false (s.toNat * 2 ^ 149)

/-- `fmul32` (R163): the cases in the rule's order. The product of two values in units of 2^−149 is in
units of 2^−298. -/
def fmul32 : F32 → F32 → F32
  | .nan, _ => .nan
  | _, .nan => .nan
  | .inf sx, .inf sy => .inf (sx != sy)
  | .inf sx, .fin sy my => if my = 0 then .nan else .inf (sx != sy)
  | .fin sx mx, .inf sy => if mx = 0 then .nan else .inf (sx != sy)
  | .fin sx mx, .fin sy my =>
    if mx = 0 ∨ my = 0 then .fin (sx != sy) 0 else round32 (sx != sy) (mx * my)

/-- The integer value of a finite number in units of 2^−149. -/
def signedMag (neg : Bool) (mag : Nat) : Int := if neg then -(mag : Int) else mag

/-- `fadd32` (R164): the cases in the rule's order; an exact zero sum of nonzero operands is +0. -/
def fadd32 : F32 → F32 → F32
  | .nan, _ => .nan
  | _, .nan => .nan
  | .inf sx, .inf sy => if sx = sy then .inf sx else .nan
  | .inf sx, .fin _ _ => .inf sx
  | .fin _ _, .inf sy => .inf sy
  | .fin sx mx, .fin sy my =>
    if mx = 0 ∧ my = 0 then .fin (sx && sy) 0
    else
      let z := signedMag sx mx + signedMag sy my
      if z = 0 then .fin false 0 else round32 (decide (z < 0)) (z.natAbs * 2 ^ 149)

/-- `MacStep(acc, s, w)`: the product is rounded before the sum (R165). -/
def macStep (acc : F32) (s : Byte) (w : Word) : F32 :=
  fadd32 acc (fmul32 (u8ToF32 s) (F32.ofBits w))

/-- `rint_even(x)` of a finite value (R186). -/
def rintEven (neg : Bool) (mag : Nat) : Int := signedMag neg (rne mag (2 ^ 149))

/-- `clamp(v, lo, hi)` (R11), which R11 defines for lo ≤ hi; for lo > hi it gives hi here (DESIGN CHOICE,
log entry 16). -/
def clamp (v lo hi : Int) : Int := min (max v lo) hi

/-- The sample `sat8(x)` (R187); its effect on `STATUS.NV` is `nvAfter` of Machine/Flags.lean. -/
def sat8 : F32 → Byte
  | .nan => 0#8
  | .inf neg => if neg then 0#8 else 255#8
  | .fin neg mag => BitVec.ofNat 8 (clamp (rintEven neg mag) 0 255).toNat

end Sys2Proof.Machine
end

