-- ==== Sys2Proof/Machine/Ops.lean ====
section
/-! DEFINITION. The shared operations over memories and registers, the acceptance of a register write
(spec/40_host_commands.md R111, R119), the error entry (spec/60_exceptions.md R255) with the return
from it (R257), and the hardware reset (spec/70_reset_and_hazards.md R275). -/

namespace Sys2Proof.Machine

/-! ## Memories: a list of (index, value), indexes strictly rising, no entry at its unlisted value -/

/-- The content of index `n`: its listed value, or `dflt n`. -/
def Cells.read {w : Nat} (dflt : Nat → BitVec w) : List (Nat × BitVec w) → Nat → BitVec w
  | [], n => dflt n
  | c :: rest, n => if n = c.1 then c.2 else Cells.read dflt rest n

/-- List `v` at index `n`, in place of an older entry. -/
def Cells.put {w : Nat} (n : Nat) (v : BitVec w) : List (Nat × BitVec w) → List (Nat × BitVec w)
  | [] => [(n, v)]
  | c :: rest =>
    if n < c.1 then (n, v) :: c :: rest
    else if n = c.1 then (n, v) :: rest
    else c :: Cells.put n v rest

/-- Unlist index `n` wherever it is listed. -/
def Cells.drop {w : Nat} (n : Nat) : List (Nat × BitVec w) → List (Nat × BitVec w)
  | [] => []
  | c :: rest => if n = c.1 then Cells.drop n rest else c :: Cells.drop n rest

/-- Store `v` at index `n`; the value an unlisted index reads as is kept by unlisting. -/
def Cells.write {w : Nat} (dflt : Nat → BitVec w) (l : List (Nat × BitVec w)) (n : Nat)
    (v : BitVec w) : List (Nat × BitVec w) :=
  if v = dflt n then Cells.drop n l else Cells.put n v l

/-- The canonical form: indexes strictly rising, no entry at its unlisted value. -/
def Cells.wf {w : Nat} (dflt : Nat → BitVec w) : List (Nat × BitVec w) → Bool
  | [] => true
  | c :: rest =>
    rest.all (fun d => decide (c.1 < d.1)) && decide (c.2 ≠ dflt c.1) && Cells.wf dflt rest

/-- The canonical form of the pixel memory, whose unlisted bytes read as the power-on value. -/
def Memory.wf (m : List Host.Cell) : Bool := Cells.wf Config.pmemPowerOn m

/-! ## Pixel memory (R60, R70) -/

/-- The byte of `PMEM` at `addr`. -/
def State.pmemByte (s : State) (addr : Nat) : Byte := Cells.read Config.pmemPowerOn s.pmem addr

/-- `PMEM[addr] <- v`: only the addressed byte changes (R70). -/
def State.setPmemByte (s : State) (addr : Nat) (v : Byte) : State :=
  { s with pmem := Cells.write Config.pmemPowerOn s.pmem addr v }

/-- `MemRead(addr, 1)`, defined below `PMEM_BYTES` only (R9). -/
def State.memRead (s : State) (addr : Nat) : Option Byte :=
  if addr < s.cfg.pmemBytes then some (s.pmemByte addr) else none

/-- `MemWrite(addr, 1, v)`, defined below `PMEM_BYTES` only (R9). -/
def State.memWrite (s : State) (addr : Nat) (v : Byte) : Option State :=
  if addr < s.cfg.pmemBytes then some (s.setPmemByte addr v) else none

/-! ## Weight memory (R48, R80) -/

/-- The content of weight entry `n`. -/
def State.kmemWord (s : State) (n : Nat) : Word :=
  Cells.read (Config.kmemAfterReset s.epoch) s.kmem n

/-- `KMEM[n] <- v`. -/
def State.setKmemWord (s : State) (n : Nat) (v : Word) : State :=
  { s with kmem := Cells.write (Config.kmemAfterReset s.epoch) s.kmem n v }

/-- `KMEM[n]`, if there is such an entry: n from 0 to 10200 (R48). -/
def State.weight (s : State) (n : Nat) : Option Word :=
  if n < Config.kmemDepth then some (s.kmemWord n) else none

/-! ## Window buffer (R51) -/

/-- The place of `WIN[a][b][c]` in the window buffer's 101 · 101 · 3 bytes. -/
def winIndex (a b c : Nat) : Nat := (a * 101 + b) * 3 + c

/-- Whether `WIN[a][b][c]` exists: 0 ≤ a, b ≤ 100 and 0 ≤ c ≤ 2 (R51). -/
def winHas (a b c : Nat) : Bool := decide (a < 101) && decide (b < 101) && decide (c < 3)

/-- The content of `WIN[a][b][c]`. -/
def State.winByte (s : State) (a b c : Nat) : Byte :=
  Cells.read (Config.winAfterReset s.epoch) s.win (winIndex a b c)

/-- `WIN[a][b][c] <- v`. -/
def State.setWinByte (s : State) (a b c : Nat) (v : Byte) : State :=
  { s with win := Cells.write (Config.winAfterReset s.epoch) s.win (winIndex a b c) v }

/-! ## Registers -/

/-- `STATUS <- st`. -/
def State.setStatus (s : State) (st : Status) : State := { s with status := st }

/-- `seq <- q`. -/
def State.setSeq (s : State) (q : Seq) : State := { s with seq := q }

/-- `ACC <- x`. -/
def State.setAcc (s : State) (x : F32) : State := { s with acc := x }

/-- `S <- v`. -/
def State.setSample (s : State) (v : Byte) : State := { s with sample := v }

/-- The host's read returns `r` (R91, R92). -/
def State.setReply (s : State) (r : Reply) : State := { s with reply := some r }

/-- The moves still to come are `es`. -/
def State.setEvents (s : State) (es : List Event) : State := { s with events := es }

/-! ## Writes while busy (R111, R119) -/

/-- A `WR32` to a writable register: dropped with `WIGN` while `BUSY` = 1, else it has its effect. -/
def acceptWrite (effect : State → State) (s : State) : State :=
  if s.status.busy then s.setStatus { s.status with wign := true } else effect s

/-! ## Errors (R241, R255) and the return from them (R257) -/

/-- The errors the block raises. -/
inductive Err where
  | invalidKernel
  | dimensionMismatch
  | addressRange
  | bufferOverlap
  | illegalCommand
  deriving DecidableEq, Repr

/-- The codes of R241. -/
def errCode : Err → BitVec 4
  | .invalidKernel => 1#4
  | .dimensionMismatch => 2#4
  | .addressRange => 4#4
  | .bufferOverlap => 5#4
  | .illegalCommand => 6#4

/-- The error entry (R255): `ERR <- 1`, `ERRCODE <- code`, and nothing else. There is no saved state
and no transfer of control. -/
def raiseError (e : Err) (s : State) : State :=
  s.setStatus { s.status with err := true, errcode := errCode e }

/-- `STATUS <- 0`: how `CLEAR`, and `START` before its checks, leave the error state (R115, R116, R257). -/
def clearStatus (s : State) : State := s.setStatus Status.zero

/-! ## Reset -/

/-- `SRESET` (R117): every register and the hidden scalar state at the reset value; `KMEM`, `WIN` and
`PMEM` keep their contents. -/
def softReset (s : State) : State :=
  { s with
    ctrl := Ctrl.zero, status := Status.zero, width := 0#16, height := 0#16, ksize := 0#8
    srcBase := 0#32, dstBase := 0#32, kaddr := 0#14
    seq := Seq.zero, acc := F32.zero, sample := 0#8 }

/-- `rst` (R55, R275): as `SRESET`, and `KMEM` and `WIN` become unspecified, which is a new `epoch` of
their free values with nothing listed; `PMEM` is unchanged (DESIGN CHOICE and DEDUCED, log
entries 6, 10). -/
def hardReset (s : State) : State :=
  { softReset s with kmem := [], win := [], epoch := s.epoch + 1 }

end Sys2Proof.Machine
end

