-- ==== Sys2Proof/Machine/Flags.lean ====
section
/-! DEFINITION. The flags of the block: `STATUS` and `CTRL` as the words a read returns, the
invalid-conversion flag, and the interrupt level (spec/10_state.md R35, R36, R42, R56). -/

namespace Sys2Proof.Machine

/-- `STATUS` as `RD32` returns it: `BUSY` bit 0, `DONE` 1, `ERR` 2, `NV` 3, `WIGN` 4, bits 7:5 zero,
`ERRCODE` bits 11:8, the rest zero (R36, R112). -/
def statusWord (st : Status) : Word :=
  0#20 ++ st.errcode ++ 0#3 ++ BitVec.ofBool st.wign ++ BitVec.ofBool st.nv ++ BitVec.ofBool st.err ++
    BitVec.ofBool st.done ++ BitVec.ofBool st.busy

/-- `CTRL` as `RD32` returns it: `IE` bit 0, `RGB` bit 1, `STRAT` bit 2, the rest zero (R35, R112). -/
def ctrlWord (c : Ctrl) : Word :=
  0#29 ++ BitVec.ofBool c.strat ++ BitVec.ofBool c.rgb ++ BitVec.ofBool c.ie

/-- The fields a written word gives `CTRL` (R120); bits 31:3 are dropped (R22). -/
def ctrlOfWord (data : Word) : Ctrl :=
  { ie := data.getLsbD 0, rgb := data.getLsbD 1, strat := data.getLsbD 2 }

/-- Whether a value is a NaN, the one case of `sat8` that touches state (R187). -/
def F32.isNan : F32 → Bool
  | .nan => true
  | .inf _ => false
  | .fin _ _ => false

/-- `STATUS.NV` after `sat8(x)`: set by a NaN, otherwise as before (R42, R187). -/
def nvAfter (x : F32) (nv : Bool) : Bool := nv || x.isNan

/-- The output `irq` = `IE` AND (`DONE` OR `ERR`), a level and no storage (R56, R260). -/
def State.irq (s : State) : Bool := s.ctrl.ie && (s.status.done || s.status.err)

end Sys2Proof.Machine
end

