-- ==== Sys2Proof/Machine/Operands.lean ====
section
/-! DEFINITION. The operands of a run (spec/30_encoding.md R98, spec/10_state.md R44), buffer addresses
(spec/20_memory.md R66 to R68), the padded read's coordinates (spec/41_padding.md R142, R143), and the
values register reads return (spec/40_host_commands.md R112). -/

namespace Sys2Proof.Machine

/-- W (R44). -/
def State.w (s : State) : Nat := s.width.toNat

/-- H (R44). -/
def State.h (s : State) : Nat := s.height.toNat

/-- K (R44). -/
def State.k (s : State) : Nat := s.ksize.toNat

/-- C = 1 + 2 · `CTRL.RGB` (R44, R98). -/
def State.chans (s : State) : Nat := if s.ctrl.rgb then 3 else 1

/-- r = (K − 1)/2 (R44). -/
def State.radius (s : State) : Nat := (s.k - 1) / 2

/-- N = W·H·C, the bytes of either buffer, over the integers (R67). -/
def State.bufBytes (s : State) : Nat := s.w * s.h * s.chans

/-- `SRC_BASE` as an address (R27, R98). -/
def State.src (s : State) : Nat := s.srcBase.toNat

/-- `DST_BASE` as an address (R28, R98). -/
def State.dst (s : State) : Nat := s.dstBase.toNat

/-- `Addr(BASE, x, y, c)` = BASE + (y·W + x)·C + c (R66), over the integers. -/
def State.addr (s : State) (base x y c : Nat) : Nat := base + (y * s.w + x) * s.chans + c

/-- `SrcAddr(x, y, c)` (R68). -/
def State.srcAddr (s : State) (x y c : Nat) : Nat := s.addr s.src x y c

/-- `DstAddr(x, y, c)` (R68). -/
def State.dstAddr (s : State) (x y c : Nat) : Nat := s.addr s.dst x y c

/-- `ClampX(t)` with `size` = W, `ClampY(t)` with `size` = H (R142). R142 and R11 define them for
`size` ≥ 1 only; for `size` = 0, which no run has, the coordinate is 0 here (DESIGN CHOICE, log entry
16). -/
def clampCoord (t : Int) (size : Nat) : Nat := (clamp t 0 ((size : Int) - 1)).toNat

/-- The platform's byte address of register word `widx`: offset 4 · `widx` from `REG_BASE` (R21, R91). A
transaction carries the word index only, so no step depends on it. -/
def State.regAddress (s : State) (widx : BitVec 4) : Nat := s.cfg.regBase + 4 * widx.toNat

/-- The address `PaddedSample(i, j, c, a, b)` reads (R143): the column offset goes with `a`, the row
offset with `b`. -/
def State.paddedAddr (s : State) (i j c a b : Nat) : Nat :=
  s.srcAddr (clampCoord ((i : Int) + a - s.radius) s.w) (clampCoord ((j : Int) + b - s.radius) s.h) c

/-- The address the current tap of the sequencer reads (R146, R147). -/
def State.tapAddr (s : State) : Nat :=
  s.paddedAddr s.seq.i.toNat s.seq.j.toNat s.seq.ch.toNat s.seq.a.toNat s.seq.b.toNat

/-- The weight index of the current tap, A·K + B (R48, R166). -/
def State.tapWeight (s : State) : Nat := s.seq.a.toNat * s.k + s.seq.b.toNat

/-- The address the current output sample goes to, `DstAddr(I, J, CH)` (R189). -/
def State.outAddr (s : State) : Nat := s.dstAddr s.seq.i.toNat s.seq.j.toNat s.seq.ch.toNat

/-- What `RD32(KDATA)` returns: the weight at `KADDR`, or 0 where there is none (R38). -/
def State.kdataWord (s : State) : Word :=
  match s.weight s.kaddr.toNat with
  | some v => v
  | none => 0#32

end Sys2Proof.Machine
end

