-- ==== Sys2Proof/Machine/Sequencer.lean ====
section
/-! DEFINITION. How the sequencer position advances (spec/44_sequencer.md R204 to R212). The
comparisons are over the integers, so that X < Y − 1 is written X + 1 < Y (DEDUCED, log entry 14). -/

namespace Sys2Proof.Machine

/-- Next tap: B, then A; after tap (K − 1, K − 1) the phase is `OUT` (R205, R209). -/
def afterTap (k : Nat) (again : Phase) (q : Seq) : Seq :=
  if q.b.toNat + 1 < k then { q with b := q.b + 1#7, phase := again }
  else if q.a.toNat + 1 < k then { q with a := q.a + 1#7, b := 0#7, phase := again }
  else { q with a := 0#7, b := 0#7, phase := .out }

/-- After `PAD` (R204). -/
def afterPad (q : Seq) : Seq := { q with phase := .mac }

/-- After `MAC`: the next tap begins with a `PAD` (R205). -/
def afterMac (k : Nat) (q : Seq) : Seq := afterTap k .pad q

/-- After `RED`: the phase stays `RED` for the next tap (R209). -/
def afterRed (k : Nat) (q : Seq) : Seq := afterTap k .red q

/-- After `FILL`: CH fastest, then B, then A; after the last entry the phase is `RED` (R208). -/
def afterFill (c k : Nat) (q : Seq) : Seq :=
  if q.ch.toNat + 1 < c then { q with ch := q.ch + 1#2 }
  else if q.b.toNat + 1 < k then { q with b := q.b + 1#7, ch := 0#2 }
  else if q.a.toNat + 1 < k then { q with a := q.a + 1#7, b := 0#7, ch := 0#2 }
  else { q with a := 0#7, b := 0#7, ch := 0#2, phase := .red }

/-- After `OUT`: the next channel, column or row, or `none` after the last sample of the run (R206,
R210, R212). The window strategy keeps the window for the next channel and fills it anew for the next
pixel. -/
def afterOut (window : Bool) (w h c : Nat) (q : Seq) : Option Seq :=
  if q.ch.toNat + 1 < c then
    some { q with ch := q.ch + 1#2, phase := if window then .red else .pad }
  else if q.i.toNat + 1 < w then
    some { q with i := q.i + 1#16, ch := 0#2, phase := if window then .fill else .pad }
  else if q.j.toNat + 1 < h then
    some { q with j := q.j + 1#16, i := 0#16, ch := 0#2, phase := if window then .fill else .pad }
  else none

/-- The first position of a run (R115 step 7). -/
def firstSeq (window : Bool) : Seq := { Seq.zero with phase := if window then .fill else .pad }

/-- The `PHASE` code (R47, R95). -/
def phaseCode : Phase → BitVec 3
  | .idle => 0b000#3
  | .pad => 0b001#3
  | .mac => 0b010#3
  | .out => 0b011#3
  | .fill => 0b100#3
  | .red => 0b101#3

/-- The phase a code names; 6 and 7 name none (R47). -/
def phaseOfCode (code : BitVec 3) : Option Phase :=
  match code.toNat with
  | 0 => some .idle
  | 1 => some .pad
  | 2 => some .mac
  | 3 => some .out
  | 4 => some .fill
  | 5 => some .red
  | _ => none

end Sys2Proof.Machine
end

