-- ==== Sys2Proof/Machine/Engine.lean ====
section
/-! DEFINITION. The engine's micro-operations (spec/41_padding.md R146, R147; spec/42_mac.md R166, R167;
spec/43_output.md R189; spec/44_sequencer.md R201, R212). Each is enabled when `BUSY` = 1 and `PHASE`
names it; otherwise the engine changes nothing (DESIGN CHOICE,
log entry 9). -/

namespace Sys2Proof.Machine

/-- The step `k` of the micro-operation of phase `p`, if it is enabled (R200). -/
def whenEnabled (p : Phase) (s : State) (k : Host.Outcome State Fault Refusal) :
    Host.Outcome State Fault Refusal :=
  if s.status.busy = true ∧ s.seq.phase = p then k else .next s

/-- `IDLE`: the engine has no step and changes nothing (R201). -/
def execIdle (s : State) : Host.Outcome State Fault Refusal := .next s

/-- `PAD` (R146): the padded sample into the latch. -/
def execPad (s : State) : Host.Outcome State Fault Refusal :=
  whenEnabled .pad s
    (match s.memRead s.tapAddr with
     | some v => .next ((s.setSample v).setSeq (afterPad s.seq))
     | none => .fault .engineAddress)

/-- `FILL` (R147): the padded sample into the window buffer. -/
def execFill (s : State) : Host.Outcome State Fault Refusal :=
  whenEnabled .fill s
    (match s.memRead s.tapAddr with
     | none => .fault .engineAddress
     | some v =>
       if winHas s.seq.a.toNat s.seq.b.toNat s.seq.ch.toNat then
         .next ((s.setWinByte s.seq.a.toNat s.seq.b.toNat s.seq.ch.toNat v).setSeq
           (afterFill s.chans s.k s.seq))
       else .fault .windowIndex)

/-- `MAC` (R166): accumulate the latched sample times the tap's weight. -/
def execMac (s : State) : Host.Outcome State Fault Refusal :=
  whenEnabled .mac s
    (match s.weight s.tapWeight with
     | some v => .next ((s.setAcc (macStep s.acc s.sample v)).setSeq (afterMac s.k s.seq))
     | none => .fault .weightIndex)

/-- `RED` (R167): `MAC` with the sample taken from the window buffer. -/
def execRed (s : State) : Host.Outcome State Fault Refusal :=
  whenEnabled .red s
    (if winHas s.seq.a.toNat s.seq.b.toNat s.seq.ch.toNat then
       match s.weight s.tapWeight with
       | some v =>
         .next ((s.setAcc (macStep s.acc (s.winByte s.seq.a.toNat s.seq.b.toNat s.seq.ch.toNat) v)).setSeq
           (afterRed s.k s.seq))
       | none => .fault .weightIndex
     else .fault .windowIndex)

/-- The last step of `OUT` (R189 step 4): the next position, or the end of the run (R212). -/
def advanceOut (s : State) : State :=
  match afterOut s.ctrl.strat s.w s.h s.chans s.seq with
  | some q => s.setSeq q
  | none => (s.setSeq Seq.zero).setStatus { s.status with busy := false, done := true }

/-- `OUT` (R189): convert and saturate, store the sample, clear the accumulator, advance. -/
def execOut (s : State) : Host.Outcome State Fault Refusal :=
  whenEnabled .out s
    (match (s.setStatus { s.status with nv := nvAfter s.acc s.status.nv }).memWrite s.outAddr
        (sat8 s.acc) with
     | some s' => .next (advanceOut (s'.setAcc F32.zero))
     | none => .fault .engineAddress)

end Sys2Proof.Machine
end

