-- ==== Sys2Proof/Machine/Pixels.lean ====
section
/-! DEFINITION. The host's pixel accesses (spec/20_memory.md R63, spec/30_encoding.md R92). They do not
go through the block: no register changes and no flag is set, also while busy. -/

namespace Sys2Proof.Machine

/-- `HostPRead(addr)` returns the byte; an address at or above `PMEM_BYTES` is refused (R63). -/
def execPrd (addr : BitVec 32) (s : State) : Host.Outcome State Fault Refusal :=
  match s.memRead addr.toNat with
  | some v => .next (s.setReply (.byte v))
  | none => .refused .hostAddress

/-- `HostPWrite(addr, data)`; an address at or above `PMEM_BYTES` is refused (R63). -/
def execPwr (addr : BitVec 32) (data : Byte) (s : State) : Host.Outcome State Fault Refusal :=
  match s.memWrite addr.toNat data with
  | some s' => .next s'
  | none => .refused .hostAddress

end Sys2Proof.Machine
end

