-- ==== Sys2Proof/Machine/Reads.lean ====
section
/-! DEFINITION. The twelve register reads (spec/40_host_commands.md R110, R112). A read writes no state
of the block at any time; the value goes back to the host. -/

namespace Sys2Proof.Machine

/-- `RD32` returns `v` (R110). -/
def readReply (v : Word) (s : State) : Host.Outcome State Fault Refusal := .next (s.setReply (.word v))

/-- `RD ID` (R33). -/
def execRdId (s : State) : Host.Outcome State Fault Refusal := readReply Config.idValue s

/-- `RD CAP` (R34). -/
def execRdCap (s : State) : Host.Outcome State Fault Refusal := readReply Config.capValue s

/-- `RD CTRL` (R35). -/
def execRdCtrl (s : State) : Host.Outcome State Fault Refusal := readReply (ctrlWord s.ctrl) s

/-- `RD STATUS` (R36). -/
def execRdStatus (s : State) : Host.Outcome State Fault Refusal := readReply (statusWord s.status) s

/-- `RD CMD`: the port has no storage and reads as 0 (R37). -/
def execRdCmd (s : State) : Host.Outcome State Fault Refusal := readReply 0#32 s

/-- `RD WIDTH` (R24). -/
def execRdWidth (s : State) : Host.Outcome State Fault Refusal := readReply (s.width.setWidth 32) s

/-- `RD HEIGHT` (R25). -/
def execRdHeight (s : State) : Host.Outcome State Fault Refusal := readReply (s.height.setWidth 32) s

/-- `RD KSIZE` (R26). -/
def execRdKsize (s : State) : Host.Outcome State Fault Refusal := readReply (s.ksize.setWidth 32) s

/-- `RD SRC_BASE` (R27). -/
def execRdSrcBase (s : State) : Host.Outcome State Fault Refusal := readReply s.srcBase s

/-- `RD DST_BASE` (R28). -/
def execRdDstBase (s : State) : Host.Outcome State Fault Refusal := readReply s.dstBase s

/-- `RD KADDR` (R29). -/
def execRdKaddr (s : State) : Host.Outcome State Fault Refusal := readReply (s.kaddr.setWidth 32) s

/-- `RD KDATA` (R38). -/
def execRdKdata (s : State) : Host.Outcome State Fault Refusal := readReply s.kdataWord s

end Sys2Proof.Machine
end

