-- ==== Sys2Proof/Machine/Commands.lean ====
section
/-! DEFINITION. The commands (spec/40_host_commands.md R114 to R118): their effect when the write to
`CMD` is accepted, and the four `CMDW` rows, each of which is the host's write of that word
(DESIGN CHOICE, log entry 11). -/

namespace Sys2Proof.Machine

/-- The first check of `START` that fails, in the order of R244: R245, R246, R247, R248, R249. All
arithmetic is over the integers (R252). -/
def startCheck (s : State) : Option Err :=
  if s.k = 0 ∨ s.k % 2 = 0 ∨ Config.kmax < s.k then some .invalidKernel
  else if s.w = 0 ∨ s.h = 0 then some .dimensionMismatch
  else if min s.w s.h < s.k then some .dimensionMismatch
  else if s.cfg.pmemBytes < s.src + s.bufBytes ∨ s.cfg.pmemBytes < s.dst + s.bufBytes then
    some .addressRange
  else if s.src < s.dst + s.bufBytes ∧ s.dst < s.src + s.bufBytes then some .bufferOverlap
  else none

/-- Step 7 of R115: `ACC <- +0`, `seq` at the first position, `BUSY <- 1`. -/
def beginRun (s : State) : State :=
  { s with
    acc := F32.zero
    seq := firstSeq s.ctrl.strat
    status := { s.status with busy := true } }

/-- `NOP` does nothing (R114). -/
def nopEffect (s : State) : State := s

/-- `START` (R115): clear `STATUS`, check, and either take the error entry or begin the run. -/
def startEffect (s : State) : State :=
  match startCheck s with
  | some e => raiseError e (clearStatus s)
  | none => beginRun (clearStatus s)

/-- `CLEAR` (R116). -/
def clearEffect (s : State) : State := clearStatus s

/-- `SRESET` (R117). -/
def sresetEffect (s : State) : State := softReset s

/-- An illegal command word takes the error entry `IllegalCommand` (R118). -/
def illegalEffect (s : State) : State := raiseError .illegalCommand s

/-- The effect of an accepted `WR32(CMD, w)`: the command the whole word selects (R94, R120). -/
def commandEffect (w : Word) (s : State) : State :=
  match w.toNat with
  | 0 => nopEffect s
  | 1 => startEffect s
  | 2 => clearEffect s
  | 3 => sresetEffect s
  | _ => illegalEffect s

/-- `NOP`: the write of 0x00000000 to `CMD` (R114, R119). -/
def execNop (s : State) : Host.Outcome State Fault Refusal := .next (acceptWrite nopEffect s)

/-- `START`: the write of 0x00000001 to `CMD` (R115, R119). -/
def execStart (s : State) : Host.Outcome State Fault Refusal := .next (acceptWrite startEffect s)

/-- `CLEAR`: the write of 0x00000002 to `CMD` (R116, R119). -/
def execClear (s : State) : Host.Outcome State Fault Refusal := .next (acceptWrite clearEffect s)

/-- `SRESET`: the write of 0x00000003 to `CMD` (R117, R119). -/
def execSreset (s : State) : Host.Outcome State Fault Refusal := .next (acceptWrite sresetEffect s)

end Sys2Proof.Machine
end

