-- ==== Sys2Proof/Machine/Writes.lean ====
section
/-! DEFINITION. The nine register writes that have an effect (spec/40_host_commands.md R111, R119,
R120). No value is checked at write time and reserved bits are dropped (R22). -/

namespace Sys2Proof.Machine

/-- `WR CTRL` (R35, R120). -/
def execWrCtrl (data : Word) (s : State) : Host.Outcome State Fault Refusal :=
  .next (acceptWrite (fun s => { s with ctrl := ctrlOfWord data }) s)

/-- `WR CMD`: the command the word encodes (R37, R120). -/
def execWrCmd (data : Word) (s : State) : Host.Outcome State Fault Refusal :=
  .next (acceptWrite (commandEffect data) s)

/-- `WR WIDTH`, data bits 15:0 (R24, R120). -/
def execWrWidth (data : Word) (s : State) : Host.Outcome State Fault Refusal :=
  .next (acceptWrite (fun s => { s with width := data.setWidth 16 }) s)

/-- `WR HEIGHT`, data bits 15:0 (R25, R120). -/
def execWrHeight (data : Word) (s : State) : Host.Outcome State Fault Refusal :=
  .next (acceptWrite (fun s => { s with height := data.setWidth 16 }) s)

/-- `WR KSIZE`, data bits 7:0 (R26, R120). -/
def execWrKsize (data : Word) (s : State) : Host.Outcome State Fault Refusal :=
  .next (acceptWrite (fun s => { s with ksize := data.setWidth 8 }) s)

/-- `WR SRC_BASE`, all 32 bits (R27, R120). -/
def execWrSrcBase (data : Word) (s : State) : Host.Outcome State Fault Refusal :=
  .next (acceptWrite (fun s => { s with srcBase := data }) s)

/-- `WR DST_BASE`, all 32 bits (R28, R120). -/
def execWrDstBase (data : Word) (s : State) : Host.Outcome State Fault Refusal :=
  .next (acceptWrite (fun s => { s with dstBase := data }) s)

/-- `WR KADDR`, data bits 13:0 (R29, R120). -/
def execWrKaddr (data : Word) (s : State) : Host.Outcome State Fault Refusal :=
  .next (acceptWrite (fun s => { s with kaddr := data.setWidth 14 }) s)

/-- The effect of an accepted `WR KDATA` (R38, R120): the entry at `KADDR` if there is one, and in every
case `KADDR` + 1 modulo 2^14. -/
def kdataEffect (data : Word) (s : State) : State :=
  let stored := if s.kaddr.toNat < Config.kmemDepth then s.setKmemWord s.kaddr.toNat data else s
  { stored with kaddr := s.kaddr + 1#14 }

/-- `WR KDATA` (R38, R120). -/
def execWrKdata (data : Word) (s : State) : Host.Outcome State Fault Refusal :=
  .next (acceptWrite (kdataEffect data) s)

end Sys2Proof.Machine
end

