-- ==== Sys2Proof/Machine/Dispatch.lean ====
section
/-! DEFINITION. One arm per instruction of the opcode table, each a direct call of its meaning. -/

namespace Sys2Proof.Machine

def exec (i : Instr) (s : State) : Host.Outcome State Fault Refusal :=
  match i with
  | .nop => Sys2Proof.Machine.execNop s
  | .start => Sys2Proof.Machine.execStart s
  | .clear => Sys2Proof.Machine.execClear s
  | .sreset => Sys2Proof.Machine.execSreset s
  | .rdId => Sys2Proof.Machine.execRdId s
  | .rdCap => Sys2Proof.Machine.execRdCap s
  | .rdCtrl => Sys2Proof.Machine.execRdCtrl s
  | .rdStatus => Sys2Proof.Machine.execRdStatus s
  | .rdCmd => Sys2Proof.Machine.execRdCmd s
  | .rdWidth => Sys2Proof.Machine.execRdWidth s
  | .rdHeight => Sys2Proof.Machine.execRdHeight s
  | .rdKsize => Sys2Proof.Machine.execRdKsize s
  | .rdSrcBase => Sys2Proof.Machine.execRdSrcBase s
  | .rdDstBase => Sys2Proof.Machine.execRdDstBase s
  | .rdKaddr => Sys2Proof.Machine.execRdKaddr s
  | .rdKdata => Sys2Proof.Machine.execRdKdata s
  | .wrCtrl data => Sys2Proof.Machine.execWrCtrl data s
  | .wrCmd data => Sys2Proof.Machine.execWrCmd data s
  | .wrWidth data => Sys2Proof.Machine.execWrWidth data s
  | .wrHeight data => Sys2Proof.Machine.execWrHeight data s
  | .wrKsize data => Sys2Proof.Machine.execWrKsize data s
  | .wrSrcBase data => Sys2Proof.Machine.execWrSrcBase data s
  | .wrDstBase data => Sys2Proof.Machine.execWrDstBase data s
  | .wrKaddr data => Sys2Proof.Machine.execWrKaddr data s
  | .wrKdata data => Sys2Proof.Machine.execWrKdata data s
  | .idle => Sys2Proof.Machine.execIdle s
  | .pad => Sys2Proof.Machine.execPad s
  | .mac => Sys2Proof.Machine.execMac s
  | .out => Sys2Proof.Machine.execOut s
  | .fill => Sys2Proof.Machine.execFill s
  | .red => Sys2Proof.Machine.execRed s
  | .prd addr => Sys2Proof.Machine.execPrd addr s
  | .pwr addr data => Sys2Proof.Machine.execPwr addr data s

end Sys2Proof.Machine
end

