-- ==== Sys2Proof/Machine/Agents.lean ====
section
/-! DEFINITION. The agents' moves (spec/00_scope.md R14; spec/44_sequencer.md R200): which packet a move
brings, and what the machine does with a packet. -/

namespace Sys2Proof.Machine

/-- The micro-operation the engine performs next (R200): the one `PHASE` names while `BUSY` = 1, and
`IDLE` while `BUSY` = 0 (R201). -/
def enginePacket (s : State) : Packet :=
  .uop (if s.status.busy then phaseCode s.seq.phase else phaseCode .idle)

/-- The packet an event brings, or none for `rst`. -/
def eventPacket (e : Event) (s : State) : Option Packet :=
  match e with
  | .rx header wdata => some (.rx header wdata)
  | .px kind addr data => some (.px kind addr data)
  | .cmdw word => some (.cmdw word)
  | .engine => some (enginePacket s)
  | .rst => none

/-- What a packet without a row does: an unmapped read returns 0 (R23), a write of a read-only or
unmapped word does nothing and sets no flag, also while busy (R113), an illegal command word is a write
to `CMD` like any other (R118, R119), and an unused `PHASE` code is stuck (U6). -/
def runReject (r : Reject) (s : State) : Host.Outcome State Fault Refusal :=
  match r with
  | .unmappedRead _ => .next (s.setReply (.word 0#32))
  | .ignoredWrite _ => .next s
  | .illegalCommand word => execWrCmd word s
  | .unusedPhase _ => .fault .unusedPhase

/-- The machine performs a packet: the decoded instruction, or the effect of one without a row. -/
def runPacket (p : Packet) (s : State) : Host.Outcome State Fault Refusal :=
  match decode p with
  | .ok i => exec i s
  | .error r => runReject r s

/-- One move: `rst` resets (R275), every other event brings a packet. -/
def runEvent (e : Event) (s : State) : Host.Outcome State Fault Refusal :=
  match eventPacket e s with
  | some p => runPacket p s
  | none => .next (hardReset s)

/-- The next move in the total order of steps (R75): the first listed event, and the engine's turn
when none is listed (DESIGN CHOICE, log entry 1). -/
def runNext (s : State) : Host.Outcome State Fault Refusal :=
  match s.events with
  | [] => runEvent .engine s
  | e :: rest => runEvent e (s.setEvents rest)

/-- `s` with a packet as its very next move: a host packet becomes the next event; a micro-operation's
code becomes `PHASE`, with `BUSY` as the code needs it (R46), and the next event the engine's turn. -/
def placePacket (p : Packet) (s : State) : State :=
  match p with
  | .rx header wdata => s.setEvents (.rx header wdata :: s.events)
  | .px kind addr data => s.setEvents (.px kind addr data :: s.events)
  | .cmdw word => s.setEvents (.cmdw word :: s.events)
  | .uop code =>
    match phaseOfCode code with
    | none => s
    | some ph =>
      ((s.setSeq { s.seq with phase := ph }).setStatus
        { s.status with busy := decide (ph ≠ .idle) }).setEvents (.engine :: s.events)

end Sys2Proof.Machine
end

