-- ==== Sys2Proof/Machine/Conv.lean ====
section
/-! DEFINITION. What a run computes, apart from how: the padded virtual buffer (spec/41_padding.md R140),
the padded sample (R143), the accumulated sum (spec/42_mac.md R168) and the end-to-end function `CONV`
(spec/44_sequencer.md R220), of the source region, weights and operands a state holds. -/

namespace Sys2Proof.Machine

/-- B[x, y][c], the source buffer's sample (R140). -/
def State.srcSample (s : State) (x y c : Nat) : Byte := s.pmemByte (s.srcAddr x y c)

/-- `padded[u, v][c]` of the (W+2r)×(H+2r) virtual buffer (R140). It is never stored (R141). -/
def State.paddedBuffer (s : State) (u v c : Nat) : Byte :=
  s.srcSample (clampCoord ((u : Int) - s.radius) s.w) (clampCoord ((v : Int) - s.radius) s.h) c

/-- `PaddedSample(i, j, c, a, b)` (R143). -/
def State.paddedSample (s : State) (i j c a b : Nat) : Byte := s.pmemByte (s.paddedAddr i j c a b)

/-- The K² taps in order: a outer, b inner, both ascending (R168). -/
def taps (k : Nat) : List (Nat × Nat) :=
  (List.range k).flatMap (fun a => (List.range k).map (fun b => (a, b)))

/-- `Acc(i, j, c)` (R168): the fold of `MacStep` over the taps from +0. -/
def State.convAcc (s : State) (i j c : Nat) : F32 :=
  (taps s.k).foldl
    (fun acc t => macStep acc (s.paddedSample i j c t.1 t.2) (s.kmemWord (t.1 * s.k + t.2))) F32.zero

/-- `CONV(B, kernel)[i, j][c]` = `sat8(Acc(i, j, c))` (R220). -/
def State.conv (s : State) (i j c : Nat) : Byte := sat8 (s.convAcc i j c)

/-- The engine steps of a run, W·H·C·(2·K² + 1), with either strategy (R215). -/
def State.runSteps (s : State) : Nat := s.w * s.h * s.chans * (2 * (s.k * s.k) + 1)

end Sys2Proof.Machine
end

