-- ==== Sys2Proof/Safety.lean ====
section
/-! DEFINITION. What a safe state is, in the terms the claims use: the invariants of spec/10_state.md R46
and R57 and spec/44_sequencer.md R213 and R214, and the canonical form of the memories. -/

namespace Sys2Proof.Machine

/-- Every listed index lies below `size`. -/
def Cells.below {w : Nat} (size : Nat) (l : List (Nat × BitVec w)) : Bool :=
  l.all (fun c => decide (c.1 < size))

/-- The memories are in canonical form and list only indexes that exist. -/
structure State.MemInv (s : State) : Prop where
  pmemForm : Memory.wf s.pmem = true
  pmemBelow : Cells.below s.cfg.pmemBytes s.pmem = true
  kmemForm : Cells.wf (Config.kmemAfterReset s.epoch) s.kmem = true
  kmemBelow : Cells.below Config.kmemDepth s.kmem = true
  winForm : Cells.wf (Config.winAfterReset s.epoch) s.win = true
  winBelow : Cells.below 30603 s.win = true

/-- The position lies in the ranges of R214 and `PHASE` fits the strategy (R47). -/
structure State.RunInv (s : State) : Prop where
  /-- The checks of `START` hold of the operand registers (R57 (f)). -/
  checks : startCheck s = none
  jRange : s.seq.j.toNat < s.h
  iRange : s.seq.i.toNat < s.w
  chRange : s.seq.ch.toNat < s.chans
  aRange : s.seq.a.toNat < s.k
  bRange : s.seq.b.toNat < s.k
  outTap : s.seq.phase = .out → s.seq.a = 0#7 ∧ s.seq.b = 0#7
  direct : s.seq.phase = .pad ∨ s.seq.phase = .mac → s.ctrl.strat = false
  window : s.seq.phase = .fill ∨ s.seq.phase = .red → s.ctrl.strat = true

/-- The invariant of the machine. -/
structure State.Inv (s : State) : Prop where
  /-- `PMEM_BYTES` is in its range (R6). -/
  cfgRange : s.cfg.wellFormed = true
  /-- R57 (a). -/
  busyClean : s.status.busy = true →
    s.status.done = false ∧ s.status.err = false ∧ s.status.errcode = 0#4
  /-- R57 (b). -/
  errIff : s.status.err = false ↔ s.status.errcode = 0#4
  /-- R57 (c). -/
  errCodes : s.status.errcode ∈ [0#4, 1#4, 2#4, 4#4, 5#4, 6#4]
  /-- R57 (d). -/
  idleIff : s.status.busy = false ↔ s.seq.phase = .idle
  /-- R46. -/
  idleSeq : s.status.busy = false → s.seq = Seq.zero
  /-- R57 (f), R214. -/
  run : s.status.busy = true → s.RunInv
  /-- `ACC` is +0 outside an accumulation and at the first tap of every sample (R213). -/
  accFresh : s.seq.phase = .idle ∨ s.seq.phase = .fill ∨
    (s.seq.phase ≠ .out ∧ s.seq.a = 0#7 ∧ s.seq.b = 0#7) → s.acc = F32.zero
  /-- `ACC` is a binary32 value (R49, R155). -/
  accBinary32 : s.acc.isBinary32 = true
  mem : s.MemInv

/-- The engine's turn is the next move. -/
def State.engineNext (s : State) : Prop := s.events = [] ∨ ∃ rest, s.events = .engine :: rest

/-- The next move is a write to `CMD`, as a register transaction or as a command word (R111, R103). -/
def State.cmdNext (s : State) : Prop :=
  ∃ word rest, s.events = .rx 0b10100#5 word :: rest ∨ s.events = .cmdw word :: rest

/-- The current sample is the last of the run (R212). -/
def State.lastSample (s : State) : Prop :=
  s.seq.ch.toNat + 1 = s.chans ∧ s.seq.i.toNat + 1 = s.w ∧ s.seq.j.toNat + 1 = s.h

/-- Whether byte `addr` lies in the source region (R67). -/
def State.inSource (s : State) (addr : Nat) : Prop := s.src ≤ addr ∧ addr < s.src + s.bufBytes

/-- Whether byte `addr` lies in the destination region (R67). -/
def State.inDest (s : State) (addr : Nat) : Prop := s.dst ≤ addr ∧ addr < s.dst + s.bufBytes

/-- A run has just begun and the host is silent: the state an accepted `START` leaves (R115 step 7). -/
def State.runBegins (s : State) : Prop :=
  s.Inv ∧ s.status = { Status.zero with busy := true } ∧ s.seq = firstSeq s.ctrl.strat ∧ s.events = []

/-- A move during a run that keeps away from the two regions: no `rst`, and no pixel write to either
region (R282, R283). Everything else the host does is free (R284). -/
def State.quiet (s : State) (e : Event) : Prop :=
  match e with
  | .rx _ _ => True
  | .cmdw _ => True
  | .engine => True
  | .rst => False
  | .px kind addr _ =>
    addr.toNat < s.cfg.pmemBytes ∧
      (kind = 1#1 → ¬ s.inSource addr.toNat ∧ ¬ s.inDest addr.toNat)

/-- The significand M of a binary32 magnitude M · 2^q in units of 2^−149, with M < 2^24 (R155): the
leading 24 bits, or all of a smaller one. -/
def significand (mag : Nat) : Nat := mag / 2 ^ (mag.log2 - 23)

/-- Whether a move is a write to one of the nine writable registers (R43). -/
def writesRegister (e : Event) : Bool :=
  match e with
  | .rx header _ => decide (header.toNat ∈ [18, 20, 21, 22, 23, 24, 25, 26, 27])
  | .cmdw _ => true
  | .px _ _ _ => false
  | .engine => false
  | .rst => false

/-- An outcome is safe when it is no fault and its next state satisfies the invariant. -/
def safeOutcome : Host.Outcome State Fault Refusal → Prop
  | .next t => t.Inv
  | .fault _ => False
  | .refused _ => True

end Sys2Proof.Machine
end

