-- ==== Sys2Proof/WellFormed.lean ====
section
/-! DEFINITION. Which instructions are transactions of the model. Every field of every format has the
format's own width, so the one check is the domain of `PMEM` (spec/20_memory.md R63). -/

namespace Sys2Proof

/-- A pixel access is a transaction of the model only below `PMEM_BYTES` (R63). Every other
instruction is well formed with every operand (R97, R98, R120: no value is checked at write time). -/
def Instr.wellFormed (cfg : Config) : Instr → Bool
  | .prd addr => decide (addr.toNat < cfg.pmemBytes)
  | .pwr addr _ => decide (addr.toNat < cfg.pmemBytes)
  | .nop | .start | .clear | .sreset => true
  | .rdId | .rdCap | .rdCtrl | .rdStatus | .rdCmd | .rdWidth | .rdHeight | .rdKsize => true
  | .rdSrcBase | .rdDstBase | .rdKaddr | .rdKdata => true
  | .wrCtrl _ | .wrCmd _ | .wrWidth _ | .wrHeight _ | .wrKsize _ => true
  | .wrSrcBase _ | .wrDstBase _ | .wrKaddr _ | .wrKdata _ => true
  | .idle | .pad | .mac | .out | .fill | .red => true

end Sys2Proof
end

