-- ==== Sys2Proof/Certificates/Slice0/Obligations.lean ====
section
/-! DEFINITION. The statements for the provers. Each docstring names the rule of spec/ it formalises. Where a
statement speaks of the next moves it speaks of `State.events`, and a silent host is the empty list: that
form of the order of moves is the model's choice (log entry 1). -/

open Sys2Proof Sys2Proof.Machine

/-! ## Reset -/

/-- The registers right after reset (spec/10_state.md R55). Its memories' unlisted entries are the free
values of log entries 5 and 6, which no rule names; `ID` and `CAP` are what reading them returns. -/
def Obligations.ResetStateHoldsResetValues : Prop :=
  (∀ n, State.reset.kmemWord n = Config.kmemAfterReset 0 n) ∧
  (∀ a b c, State.reset.winByte a b c = Config.winAfterReset 0 (winIndex a b c)) ∧
  (∀ x, State.reset.pmemByte x = Config.pmemPowerOn x) ∧
  State.reset.ctrl = ⟨false, false, false⟩ ∧
  State.reset.status = ⟨false, false, false, false, false, 0#4⟩ ∧
  State.reset.width = 0#16 ∧ State.reset.height = 0#16 ∧ State.reset.ksize = 0#8 ∧
  State.reset.srcBase = 0#32 ∧ State.reset.dstBase = 0#32 ∧ State.reset.kaddr = 0#14 ∧
  State.reset.seq = ⟨.idle, 0#16, 0#16, 0#2, 0#7, 0#7⟩ ∧ State.reset.acc = F32.ofBits 0#32 ∧
  State.reset.sample = 0#8 ∧ State.reset.irq = false ∧
  exec .rdId State.reset = .next { State.reset with reply := some (.word 0x434F4E56#32) } ∧
  exec .rdCap State.reset = .next { State.reset with reply := some (.word 0x00000165#32) }

/-- `rst` in any state, also during a run (spec/70_reset_and_hazards.md R275, R276): every register and
the hidden scalar state at the value of R55, `PMEM` unchanged. That `KMEM` and `WIN` then hold the free
values of the next reset number is the model's form of "unspecified" (log entry 6). -/
def Obligations.RstPutsTheBlockAtItsResetValues : Prop :=
  ∀ (s : State) (rest : List Event), s.events = .rst :: rest →
    ∃ t, step s = .next t ∧
      t.ctrl = ⟨false, false, false⟩ ∧
      t.status = ⟨false, false, false, false, false, 0#4⟩ ∧
      t.width = 0#16 ∧ t.height = 0#16 ∧ t.ksize = 0#8 ∧ t.srcBase = 0#32 ∧ t.dstBase = 0#32 ∧
      t.kaddr = 0#14 ∧ t.seq = ⟨.idle, 0#16, 0#16, 0#2, 0#7, 0#7⟩ ∧ t.acc = F32.ofBits 0#32 ∧
      t.sample = 0#8 ∧ t.irq = false ∧ (∀ x, t.pmemByte x = s.pmemByte x) ∧
      (∀ n, t.kmemWord n = Config.kmemAfterReset (s.epoch + 1) n) ∧
      (∀ a b c, t.winByte a b c = Config.winAfterReset (s.epoch + 1) (winIndex a b c)) ∧
      t.events = rest ∧ t.cfg = s.cfg ∧ t.reply = s.reply

/-! ## Register transactions -/

/-- R112: what every `RD32` returns, at any time; nothing else changes (R110). -/
def Obligations.RegisterReadsReturnTheirValues : Prop :=
  ∀ s : State,
    exec .rdId s = .next { s with reply := some (.word 0x434F4E56#32) } ∧
    exec .rdCap s = .next { s with reply := some (.word 0x00000165#32) } ∧
    exec .rdCtrl s = .next { s with reply := some (.word (BitVec.ofNat 32
      (s.ctrl.ie.toNat + 2 * s.ctrl.rgb.toNat + 4 * s.ctrl.strat.toNat))) } ∧
    exec .rdStatus s = .next { s with reply := some (.word (BitVec.ofNat 32
      (s.status.busy.toNat + 2 * s.status.done.toNat + 4 * s.status.err.toNat +
        8 * s.status.nv.toNat + 16 * s.status.wign.toNat + 256 * s.status.errcode.toNat))) } ∧
    exec .rdCmd s = .next { s with reply := some (.word 0#32) } ∧
    exec .rdWidth s = .next { s with reply := some (.word (BitVec.ofNat 32 s.width.toNat)) } ∧
    exec .rdHeight s = .next { s with reply := some (.word (BitVec.ofNat 32 s.height.toNat)) } ∧
    exec .rdKsize s = .next { s with reply := some (.word (BitVec.ofNat 32 s.ksize.toNat)) } ∧
    exec .rdSrcBase s = .next { s with reply := some (.word s.srcBase) } ∧
    exec .rdDstBase s = .next { s with reply := some (.word s.dstBase) } ∧
    exec .rdKaddr s = .next { s with reply := some (.word (BitVec.ofNat 32 s.kaddr.toNat)) } ∧
    exec .rdKdata s = .next { s with reply := some (.word
      (if s.kaddr.toNat ≤ 10200 then s.kmemWord s.kaddr.toNat else 0#32)) } ∧
    (∀ (widx : BitVec 4) (d : Word), 12 ≤ widx.toNat →
      runPacket (.rx (0#1 ++ widx) d) s = .next { s with reply := some (.word 0#32) })

/-- R120: the effect of every `WR32` accepted while `BUSY` = 0, and that nothing else changes. `CMD`
executes the command the word encodes; the entry `KDATA` stores is read back through the model's read of
one weight. -/
def Obligations.AcceptedWritesHaveTheirEffect : Prop :=
  ∀ (s : State) (data : Word), s.status.busy = false →
    exec (.wrCtrl data) s =
      .next { s with ctrl := ⟨data.getLsbD 0, data.getLsbD 1, data.getLsbD 2⟩ } ∧
    (∀ i, decode (.cmdw data) = .ok i →
      exec (.wrCmd data) s = exec i s ∧ ∃ t, exec (.wrCmd data) s = .next t) ∧
    (3 < data.toNat → exec (.wrCmd data) s =
      .next { s with status := { s.status with err := true, errcode := 6#4 } }) ∧
    exec (.wrWidth data) s = .next { s with width := data.extractLsb' 0 16 } ∧
    exec (.wrHeight data) s = .next { s with height := data.extractLsb' 0 16 } ∧
    exec (.wrKsize data) s = .next { s with ksize := data.extractLsb' 0 8 } ∧
    exec (.wrSrcBase data) s = .next { s with srcBase := data } ∧
    exec (.wrDstBase data) s = .next { s with dstBase := data } ∧
    exec (.wrKaddr data) s = .next { s with kaddr := data.extractLsb' 0 14 } ∧
    (∃ t, exec (.wrKdata data) s = .next t ∧
      t.kaddr.toNat = (s.kaddr.toNat + 1) % 16384 ∧
      (∀ n, t.kmemWord n = if n = s.kaddr.toNat ∧ n ≤ 10200 then data else s.kmemWord n) ∧
      { t with kmem := s.kmem, kaddr := s.kaddr } = s)

/-- R119: while `BUSY` = 1 every register write and every command is dropped, and its only effect is
`WIGN` = 1. -/
def Obligations.WritesWhileBusyOnlySetWign : Prop :=
  ∀ (s : State) (data : Word), s.status.busy = true →
    ∀ i ∈ [Instr.nop, .start, .clear, .sreset, .wrCtrl data, .wrCmd data, .wrWidth data,
        .wrHeight data, .wrKsize data, .wrSrcBase data, .wrDstBase data, .wrKaddr data,
        .wrKdata data],
      exec i s = .next { s with status := { s.status with wign := true } }

/-- R113: a `WR32` to `ID`, `CAP`, `STATUS` or an unmapped word changes no state and sets no flag,
whether or not the engine is busy. -/
def Obligations.WritesToReadOnlyWordsAreIgnored : Prop :=
  ∀ (s : State) (widx : BitVec 4) (d : Word),
    widx.toNat ∈ [0, 1, 3, 12, 13, 14, 15] → runPacket (.rx (1#1 ++ widx) d) s = .next s

/-- R121: after `KADDR` = 0 and a row of accepted `KDATA` writes, entry n holds the n-th word, the
index stands after the last, and nothing else has changed. -/
def Obligations.KernelLoadFillsTheEntriesInOrder : Prop :=
  ∀ (s : State) (ws : List Word) (rest : List Event),
    s.status.busy = false → ws.length ≤ 10201 →
    s.events = .rx 0b11010#5 0#32 :: (ws.map (fun v => Event.rx 0b11011#5 v) ++ rest) →
    ∃ t, Host.Core.run core (ws.length + 1) s = .next t ∧
      (∀ n (h : n < ws.length), t.kmemWord n = ws[n]) ∧
      (∀ n, ws.length ≤ n → t.kmemWord n = s.kmemWord n) ∧
      t.kaddr.toNat = ws.length ∧ t.events = rest ∧
      { t with kmem := s.kmem, kaddr := s.kaddr, events := s.events } = s

/-! ## Commands -/

/-- R114, R116, R117: `NOP` does nothing, `CLEAR` clears `STATUS` and so drops `irq`, `SRESET` puts
every register and the hidden scalar state at the reset value and keeps `KMEM`, `WIN` and `PMEM`; while
busy each is dropped with `WIGN`. -/
def Obligations.NopClearAndSresetHaveTheirEffect : Prop :=
  ∀ s : State,
    (s.status.busy = false →
      exec .nop s = .next s ∧
      (∃ t, exec .clear s = .next t ∧ t.irq = false ∧
        t = { s with status := ⟨false, false, false, false, false, 0#4⟩ }) ∧
      exec .sreset s = .next
        { s with
          ctrl := ⟨false, false, false⟩, status := ⟨false, false, false, false, false, 0#4⟩
          width := 0#16, height := 0#16, ksize := 0#8, srcBase := 0#32, dstBase := 0#32
          kaddr := 0#14, acc := F32.ofBits 0#32, sample := 0#8
          seq := ⟨.idle, 0#16, 0#16, 0#2, 0#7, 0#7⟩ }) ∧
    (s.status.busy = true → ∀ i ∈ [Instr.nop, .clear, .sreset],
      exec i s = .next { s with status := { s.status with wign := true } })

/-- R115, R244 to R249: `START` while idle clears `STATUS`, makes its checks in order over the integers,
and takes the error entry of the first that fails or begins the run. Nothing else changes: no byte of
`PMEM` is touched (R256). -/
def Obligations.StartChecksInOrderThenBeginsTheRun : Prop :=
  ∀ (s : State) (K W H C N S D P : Nat),
    s.status.busy = false → K = s.ksize.toNat → W = s.width.toNat → H = s.height.toNat →
    C = 1 + 2 * s.ctrl.rgb.toNat → N = W * H * C → S = s.srcBase.toNat → D = s.dstBase.toNat →
    P = s.cfg.pmemBytes →
    exec .start s = .next
      (if K = 0 ∨ K % 2 = 0 ∨ K > 101 then
        { s with status := ⟨false, false, true, false, false, 1#4⟩ }
      else if W = 0 ∨ H = 0 then { s with status := ⟨false, false, true, false, false, 2#4⟩ }
      else if K > min W H then { s with status := ⟨false, false, true, false, false, 2#4⟩ }
      else if S + N > P ∨ D + N > P then
        { s with status := ⟨false, false, true, false, false, 4#4⟩ }
      else if S < D + N ∧ D < S + N then
        { s with status := ⟨false, false, true, false, false, 5#4⟩ }
      else
        { s with
          status := ⟨true, false, false, false, false, 0#4⟩
          acc := F32.ofBits 0#32
          seq := ⟨if s.ctrl.strat then .fill else .pad, 0#16, 0#16, 0#2, 0#7, 0#7⟩ })

/-- R118, R250, R255: a word other than 0, 1, 2, 3 written to `CMD` while idle, as a register
transaction or as a command word, sets `ERR` and `ERRCODE` = 6 and changes nothing else. -/
def Obligations.IllegalCommandTakesTheErrorEntry : Prop :=
  ∀ (s : State) (w : Word), s.status.busy = false → 3 < w.toNat →
    ∀ p ∈ [Packet.rx 0b10100#5 w, Packet.cmdw w],
      runPacket p s = .next { s with status := { s.status with err := true, errcode := 6#4 } }

/-- R103: the pseudo-operation `CMD` is the write of its word to `CMD`: the two forms of the move do the
same for every word in every state. That a command word is a move of its own is the model's choice (log
entry 11). -/
def Obligations.CommandWordIsAWriteToCmd : Prop :=
  ∀ (s : State) (w : Word), runPacket (.cmdw w) s = runPacket (.rx 0b10100#5 w) s

/-! ## Host pixel accesses -/

/-- R63: below `PMEM_BYTES`, `HostPRead` returns the byte and `HostPWrite` stores it, changing the
addressed byte only, no register and no flag, also while busy; at or above `PMEM_BYTES` both are
refused. -/
def Obligations.HostPixelAccessesReachPmemOnly : Prop :=
  ∀ (s : State) (addr : BitVec 32) (data : Byte),
    (addr.toNat < s.cfg.pmemBytes →
      exec (.prd addr) s = .next { s with reply := some (.byte (s.pmemByte addr.toNat)) } ∧
      ∃ t, exec (.pwr addr data) s = .next t ∧
        (∀ x, t.pmemByte x = if x = addr.toNat then data else s.pmemByte x) ∧
        { t with pmem := s.pmem } = s) ∧
    (s.cfg.pmemBytes ≤ addr.toNat →
      exec (.prd addr) s = .refused .hostAddress ∧
      exec (.pwr addr data) s = .refused .hostAddress)

/-! ## Micro-operations -/

/-- R142, R143, R66: the address of the current tap, with each coordinate clamped into the image, the
column offset with A and the row offset with B. -/
def Obligations.TapAddressIsTheClampedSample : Prop :=
  ∀ (s : State) (tx ty : Int) (x y : Nat), 0 < s.w → 0 < s.h →
    tx = (s.seq.i.toNat : Int) + s.seq.a.toNat - ((s.ksize.toNat - 1) / 2 : Nat) →
    ty = (s.seq.j.toNat : Int) + s.seq.b.toNat - ((s.ksize.toNat - 1) / 2 : Nat) →
    (tx < 0 → x = 0) → (0 ≤ tx → tx ≤ s.w - 1 → (x : Int) = tx) → (s.w - 1 < tx → x = s.w - 1) →
    (ty < 0 → y = 0) → (0 ≤ ty → ty ≤ s.h - 1 → (y : Int) = ty) → (s.h - 1 < ty → y = s.h - 1) →
    s.tapAddr = s.srcBase.toNat +
      (y * s.width.toNat + x) * (1 + 2 * s.ctrl.rgb.toNat) + s.seq.ch.toNat

/-- R143, R145 (a), (b), (c): the padded sample is the padded virtual buffer's; away from the border it
is the source sample itself; the centre tap is the pixel itself everywhere; a constant channel stays
constant. -/
def Obligations.PaddedSampleReplicatesEdges : Prop :=
  ∀ (s : State) (i j c a b : Nat), s.ksize.toNat % 2 = 1 → i < s.w → j < s.h →
    s.paddedSample i j c a b = s.paddedBuffer (i + a) (j + b) c ∧
    (a < s.k → b < s.k → s.radius ≤ i → i + s.radius < s.w → s.radius ≤ j → j + s.radius < s.h →
      s.paddedSample i j c a b = s.srcSample (i + a - s.radius) (j + b - s.radius) c) ∧
    s.paddedSample i j c s.radius s.radius = s.srcSample i j c ∧
    (∀ v, (∀ x y, x < s.w → y < s.h → s.srcSample x y c = v) → s.paddedSample i j c a b = v)

/-- R146, R204: `PAD` latches `PaddedSample(I, J, CH, A, B)` and the phase becomes `MAC`; nothing else
changes. -/
def Obligations.PadLatchesTheTapSample : Prop :=
  ∀ s : State, s.status.busy = true → s.seq.phase = .pad → s.tapAddr < s.cfg.pmemBytes →
    exec .pad s = .next
      { s with
        sample := s.paddedSample s.seq.i.toNat s.seq.j.toNat s.seq.ch.toNat s.seq.a.toNat s.seq.b.toNat
        seq := { s.seq with phase := .mac } }

/-- R147, R208: `FILL` writes `PaddedSample(I, J, CH, A, B)` to `WIN[A][B][CH]` and to no other entry;
`seq` advances CH fastest, then B, then A, and to `RED` after the last; nothing else changes. -/
def Obligations.FillStoresTheTapSampleInTheWindow : Prop :=
  ∀ (s : State) (C K : Int), s.status.busy = true → s.seq.phase = .fill →
    s.tapAddr < s.cfg.pmemBytes → s.seq.a.toNat ≤ 100 → s.seq.b.toNat ≤ 100 →
    s.seq.ch.toNat ≤ 2 → C = 1 + 2 * s.ctrl.rgb.toNat → K = s.ksize.toNat →
    ∃ t, exec .fill s = .next t ∧
      (∀ a b c, a ≤ 100 → b ≤ 100 → c ≤ 2 → t.winByte a b c =
        if a = s.seq.a.toNat ∧ b = s.seq.b.toNat ∧ c = s.seq.ch.toNat then
          s.paddedSample s.seq.i.toNat s.seq.j.toNat s.seq.ch.toNat s.seq.a.toNat s.seq.b.toNat
        else s.winByte a b c) ∧
      t.seq =
        (if s.seq.ch.toNat < C - 1 then { s.seq with ch := s.seq.ch + 1#2 }
        else if s.seq.b.toNat < K - 1 then { s.seq with b := s.seq.b + 1#7, ch := 0#2 }
        else if s.seq.a.toNat < K - 1 then { s.seq with a := s.seq.a + 1#7, b := 0#7, ch := 0#2 }
        else { s.seq with a := 0#7, b := 0#7, ch := 0#2, phase := .red }) ∧
      { t with win := s.win, seq := s.seq } = s

/-- R166, R205: `MAC` adds the rounded product of the latched sample and the weight at A·K + B to
`ACC`; `seq` goes to the next tap's `PAD`, or to `OUT` after the last tap; nothing else changes. -/
def Obligations.MacAccumulatesTheLatchedSample : Prop :=
  ∀ (s : State) (K : Int), s.status.busy = true → s.seq.phase = .mac →
    s.seq.a.toNat * s.ksize.toNat + s.seq.b.toNat ≤ 10200 → K = s.ksize.toNat →
    exec .mac s = .next
      { s with
        acc := fadd32 s.acc (fmul32 (u8ToF32 s.sample)
          (F32.ofBits (s.kmemWord (s.seq.a.toNat * s.ksize.toNat + s.seq.b.toNat))))
        seq :=
          if s.seq.b.toNat < K - 1 then { s.seq with b := s.seq.b + 1#7, phase := .pad }
          else if s.seq.a.toNat < K - 1 then
            { s.seq with a := s.seq.a + 1#7, b := 0#7, phase := .pad }
          else { s.seq with a := 0#7, b := 0#7, phase := .out } }

/-- R167, R209: `RED` does the same with the sample `WIN[A][B][CH]`; the phase stays `RED` until the
last tap; nothing else changes. -/
def Obligations.RedAccumulatesTheWindowSample : Prop :=
  ∀ (s : State) (K : Int), s.status.busy = true → s.seq.phase = .red →
    s.seq.a.toNat * s.ksize.toNat + s.seq.b.toNat ≤ 10200 → s.seq.a.toNat ≤ 100 →
    s.seq.b.toNat ≤ 100 → s.seq.ch.toNat ≤ 2 → K = s.ksize.toNat →
    exec .red s = .next
      { s with
        acc := fadd32 s.acc (fmul32
          (u8ToF32 (s.winByte s.seq.a.toNat s.seq.b.toNat s.seq.ch.toNat))
          (F32.ofBits (s.kmemWord (s.seq.a.toNat * s.ksize.toNat + s.seq.b.toNat))))
        seq :=
          if s.seq.b.toNat < K - 1 then { s.seq with b := s.seq.b + 1#7 }
          else if s.seq.a.toNat < K - 1 then { s.seq with a := s.seq.a + 1#7, b := 0#7 }
          else { s.seq with a := 0#7, b := 0#7, phase := .out } }

/-- R189, R206, R210, R212: `OUT` stores `sat8(ACC)` at `DstAddr(I, J, CH)` and in no other byte, sets
`NV` when `ACC` is a NaN, clears `ACC`, and advances to the next channel, column or row, or finishes the
run; nothing else changes. -/
def Obligations.OutStoresTheSampleAndAdvances : Prop :=
  ∀ (s : State) (C W H : Int) (window : Bool), s.status.busy = true → s.seq.phase = .out →
    s.outAddr < s.cfg.pmemBytes → C = 1 + 2 * s.ctrl.rgb.toNat → W = s.width.toNat →
    H = s.height.toNat → window = s.ctrl.strat →
    ∃ t, exec .out s = .next t ∧
      (∀ x, t.pmemByte x =
        if x = s.dstBase.toNat + (s.seq.j.toNat * s.width.toNat + s.seq.i.toNat) *
            (1 + 2 * s.ctrl.rgb.toNat) + s.seq.ch.toNat
        then sat8 s.acc else s.pmemByte x) ∧
      t.acc = F32.ofBits 0#32 ∧
      (t.seq, t.status) =
        (if s.seq.ch.toNat < C - 1 then
          ({ s.seq with ch := s.seq.ch + 1#2, phase := if window then .red else .pad },
            { s.status with nv := s.status.nv || decide (s.acc = .nan) })
        else if s.seq.i.toNat < W - 1 then
          ({ s.seq with i := s.seq.i + 1#16, ch := 0#2, phase := if window then .fill else .pad },
            { s.status with nv := s.status.nv || decide (s.acc = .nan) })
        else if s.seq.j.toNat < H - 1 then
          ({ s.seq with
              j := s.seq.j + 1#16, i := 0#16, ch := 0#2
              phase := if window then .fill else .pad },
            { s.status with nv := s.status.nv || decide (s.acc = .nan) })
        else
          (⟨.idle, 0#16, 0#16, 0#2, 0#7, 0#7⟩,
            { s.status with
              nv := s.status.nv || decide (s.acc = .nan), busy := false, done := true })) ∧
      { t with pmem := s.pmem, acc := s.acc, seq := s.seq, status := s.status } = s

/-- R201: `IDLE` changes nothing. That a micro-operation which is not enabled changes nothing either is
the model's choice (log entry 9). -/
def Obligations.EngineChangesNothingUnlessEnabled : Prop :=
  ∀ s : State,
    exec .idle s = .next s ∧
    (s.status.busy = false ∨ s.seq.phase ≠ .pad → exec .pad s = .next s) ∧
    (s.status.busy = false ∨ s.seq.phase ≠ .mac → exec .mac s = .next s) ∧
    (s.status.busy = false ∨ s.seq.phase ≠ .out → exec .out s = .next s) ∧
    (s.status.busy = false ∨ s.seq.phase ≠ .fill → exec .fill s = .next s) ∧
    (s.status.busy = false ∨ s.seq.phase ≠ .red → exec .red s = .next s)

/-- Where an enabled micro-operation stops: `MemRead` and `MemWrite` are defined below `PMEM_BYTES`
only (R9), `KMEM` has entries 0 to 10200 (R48) and `WIN` indexes up to 100, 100 and 2 (R51). The names
of the stops are the model's (log entry 12). -/
def Obligations.EngineStopsOutsideItsMemories : Prop :=
  ∀ s : State, s.status.busy = true →
    (s.seq.phase = .pad → s.cfg.pmemBytes ≤ s.tapAddr → exec .pad s = .fault .engineAddress) ∧
    (s.seq.phase = .fill → s.cfg.pmemBytes ≤ s.tapAddr → exec .fill s = .fault .engineAddress) ∧
    (s.seq.phase = .fill → s.tapAddr < s.cfg.pmemBytes →
      100 < s.seq.a.toNat ∨ 100 < s.seq.b.toNat ∨ 2 < s.seq.ch.toNat →
      exec .fill s = .fault .windowIndex) ∧
    (s.seq.phase = .mac → 10200 < s.seq.a.toNat * s.ksize.toNat + s.seq.b.toNat →
      exec .mac s = .fault .weightIndex) ∧
    (s.seq.phase = .red → 100 < s.seq.a.toNat ∨ 100 < s.seq.b.toNat ∨ 2 < s.seq.ch.toNat →
      exec .red s = .fault .windowIndex) ∧
    (s.seq.phase = .red → s.seq.a.toNat ≤ 100 → s.seq.b.toNat ≤ 100 → s.seq.ch.toNat ≤ 2 →
      10200 < s.seq.a.toNat * s.ksize.toNat + s.seq.b.toNat → exec .red s = .fault .weightIndex) ∧
    (s.seq.phase = .out → s.cfg.pmemBytes ≤ s.outAddr → exec .out s = .fault .engineAddress)

/-! ## The step and the decoder -/

/-- A listed host move is performed by the next step, with the move taken off the list and nothing else
added: the step is what the machine does with the move's packet, whether or not it has a row, and where the
packet decodes to an instruction it runs that instruction. That moves are listed in `State.events` and a
step takes the first is the model's choice (log entry 1), and so is a command word as a move of its own
(log entry 11). -/
def Obligations.StepRunsTheDecodedInstruction : Prop :=
  ∀ (s : State) (rest : List Event),
    (∀ h d, s.events = .rx h d :: rest →
      step s = runPacket (.rx h d) { s with events := rest } ∧
      ∀ i, decode (.rx h d) = .ok i → step s = exec i { s with events := rest }) ∧
    (∀ k a d, s.events = .px k a d :: rest →
      step s = runPacket (.px k a d) { s with events := rest } ∧
      ∀ i, decode (.px k a d) = .ok i → step s = exec i { s with events := rest }) ∧
    (∀ w, s.events = .cmdw w :: rest →
      step s = runPacket (.cmdw w) { s with events := rest } ∧
      ∀ i, decode (.cmdw w) = .ok i → step s = exec i { s with events := rest })

/-- R200: the engine's turn performs the one micro-operation `PHASE` names while `BUSY` = 1, and nothing
while `BUSY` = 0. That the turn comes from the list, and every turn once the list is empty, is log entry
1. -/
def Obligations.EngineTurnRunsThePhase : Prop :=
  ∀ (s t : State), (s.events = [] ∧ t = s) ∨ (∃ rest, s.events = .engine :: rest ∧
      t = { s with events := rest }) →
    (s.status.busy = false → step s = .next t) ∧
    (s.status.busy = true →
      (s.seq.phase = .idle → step s = .next t) ∧
      (s.seq.phase = .pad → step s = exec .pad t) ∧
      (s.seq.phase = .mac → step s = exec .mac t) ∧
      (s.seq.phase = .out → step s = exec .out t) ∧
      (s.seq.phase = .fill → step s = exec .fill t) ∧
      (s.seq.phase = .red → step s = exec .red t))

/-- A word of the opcode table placed as the next move is run by the next step as the very instruction
the decoder reads from it (log entries 2 and 8). -/
def Obligations.PlacedTableWordRunsNext : Prop :=
  ∀ (s : State) (nbits w : Nat) (i : Instr), decodeTableWord nbits w = some i →
    (nbits ≠ 3 → step (s.withFetchWord nbits w) = exec i s) ∧
    (nbits = 3 → ∃ ph : Phase, (phaseCode ph).toNat = w ∧
      step (s.withFetchWord nbits w) = exec i
        { s with
          seq := { s.seq with phase := ph }
          status := { s.status with busy := decide (ph ≠ .idle) } })

/-- Words written out from R91 to R95 decode to the instruction they stand for. -/
def Obligations.SampleWordsDecode : Prop :=
  decode (.cmdw 0b00000000000000000000000000000001#32) = .ok .start ∧
  decode (.rx 0b00011#5 0#32) = .ok .rdStatus ∧
  decode (.rx 0b11011#5 0x3F800000#32) = .ok (.wrKdata 0x3F800000#32) ∧
  decode (.px 0b1#1 0x00001000#32 0x0A#8) = .ok (.pwr 0x00001000#32 0x0A#8) ∧
  decode (.uop 0b101#3) = .ok .red

/-- R91 to R95: decoding an encoded instruction gives it back, with every operand; and a packet that
decodes to an instruction is that instruction's encoding, up to the fields R91 and R92 give no meaning
(the data word of a read, the byte of a `HostPRead`). -/
def Obligations.DecodeAndEncodeAgree : Prop :=
  (∀ i, decode (encode i) = .ok i) ∧
  (∀ p i, decode p = .ok i →
    encode i = p ∨
    (∃ h d, p = .rx h d ∧ h.toNat < 16 ∧ encode i = .rx h 0#32) ∨
    (∃ addr data, p = .px 0#1 addr data ∧ encode i = .px 0#1 addr 0#8))

/-- R23, R99, R100, R113, R47: exactly the reads of words 12 to 15, the writes of words 0, 1, 3 and 12
to 15, the command words above 3 and the `PHASE` codes 6 and 7 are no instruction, each under its own
name. -/
def Obligations.DecoderRejectsExactlyTheReserved : Prop :=
  ∀ (p : Packet) (r : Reject), decode p = .error r ↔
    (∃ (widx : BitVec 4) (d : Word), p = .rx (0#1 ++ widx) d ∧ 12 ≤ widx.toNat ∧
      r = .unmappedRead widx) ∨
    (∃ (widx : BitVec 4) (d : Word), p = .rx (1#1 ++ widx) d ∧
      widx.toNat ∈ [0, 1, 3, 12, 13, 14, 15] ∧ r = .ignoredWrite widx) ∨
    (∃ w : Word, p = .cmdw w ∧ 3 < w.toNat ∧ r = .illegalCommand w) ∨
    (∃ code : BitVec 3, p = .uop code ∧ 6 ≤ code.toNat ∧ r = .unusedPhase code)

/-- R63: the pixel accesses at or above `PMEM_BYTES` are the only instructions the model refuses, and
they are exactly the ill-formed ones; no instruction is refused for any other reason, in any state. -/
def Obligations.OnlyIllFormedInstructionsAreRefused : Prop :=
  ∀ (i : Instr) (s : State),
    (∃ r, exec i s = .refused r) ↔ i.wellFormed s.cfg = false

/-! ## Binary32 arithmetic and the output stage -/

/-- R159: the rounded magnitude is a nearest one: no binary32 magnitude is nearer to n · 2^−298, below
overflow; and where another one is equally near, the one given has an even significand. -/
def Obligations.RoundingPicksANearestValue : Prop :=
  ∀ (n m : Nat), roundMag n < F32.limit → (F32.fin false m).isBinary32 = true →
    (F32.fin false (roundMag n)).isBinary32 = true ∧
    ((roundMag n * 2 ^ 149 : Int) - n).natAbs ≤ ((m * 2 ^ 149 : Int) - n).natAbs ∧
    (m ≠ roundMag n →
      ((roundMag n * 2 ^ 149 : Int) - n).natAbs = ((m * 2 ^ 149 : Int) - n).natAbs →
      significand (roundMag n) % 2 = 0)

/-- R159: infinity exactly from 2^128 − 2^103 up, zero exactly up to 2^−150, and a binary32 value is
left as it is. Magnitudes are in units of 2^−298, in which 2^128 − 2^103 is (2^277 − 2^252) · 2^149 and
2^−150 is 2^148. -/
def Obligations.RoundingLimitsAndFixedPoints : Prop :=
  (∀ neg n, round32 neg n = .inf neg ↔ (2 ^ 200 * 2 ^ 77 - 2 ^ 252) * 2 ^ 149 ≤ n) ∧
  (∀ neg n, round32 neg n = .fin neg 0 ↔ n ≤ 2 ^ 148) ∧
  (∀ neg m, (F32.fin neg m).isBinary32 = true → round32 neg (m * 2 ^ 149) = .fin neg m)

/-- R155: the arithmetic stays in the set of binary32 values. -/
def Obligations.ArithmeticStaysInBinary32 : Prop :=
  (∀ p : Word, (F32.ofBits p).isBinary32 = true) ∧
  (∀ s : Byte, (u8ToF32 s).isBinary32 = true) ∧
  ∀ x y : F32, x.isBinary32 = true → y.isBinary32 = true →
    (fmul32 x y).isBinary32 = true ∧ (fadd32 x y).isBinary32 = true

/-- R164: adding either zero leaves a nonzero binary32 value alone, and the sum is commutative. -/
def Obligations.AdditionIsCommutativeWithZeros : Prop :=
  (∀ x y, fadd32 x y = fadd32 y x) ∧
  (∀ (x : F32) (z : Bool), x.isBinary32 = true → (∀ neg, x ≠ .fin neg 0) →
    fadd32 x (.fin z 0) = x)

/-- R169 (d), (e): products of a sample and an integer weight, and sums of integers, are exact up to
2^24 in magnitude. -/
def Obligations.IntegerArithmeticIsExact : Prop :=
  (∀ (x y : Int), x.natAbs ≤ 2 ^ 24 → y.natAbs ≤ 2 ^ 24 → (x + y).natAbs ≤ 2 ^ 24 →
    fadd32 (.fin (decide (x < 0)) (x.natAbs * 2 ^ 149)) (.fin (decide (y < 0)) (y.natAbs * 2 ^ 149)) =
      .fin (decide (x + y < 0)) ((x + y).natAbs * 2 ^ 149)) ∧
  (∀ (s : Byte) (v : Nat) (neg : Bool), s.toNat * v < 2 ^ 24 →
    fmul32 (u8ToF32 s) (.fin neg (v * 2 ^ 149)) = .fin neg (s.toNat * v * 2 ^ 149))

/-- R173: the corner cases of `MacStep`, row by row. -/
def Obligations.MacStepCornerCases : Prop :=
  (∀ (acc : F32) (w : Word) (neg : Bool) (m : Nat), acc.isBinary32 = true →
    (∃ sg mg, acc = .fin sg mg ∧ mg ≠ 0) → F32.ofBits w = .fin neg m → macStep acc 0#8 w = acc) ∧
  (∀ (sg neg : Bool) (m : Nat) (w : Word), F32.ofBits w = .fin neg m →
    macStep (.fin sg 0) 0#8 w = .fin (sg && neg) 0) ∧
  (∀ (acc : F32) (w : Word) (neg : Bool), F32.ofBits w = .inf neg → macStep acc 0#8 w = .nan) ∧
  (∀ (sg : Bool) (mg : Nat) (s : Byte) (w : Word), 0 < s.toNat → F32.ofBits w = .inf false →
    macStep (.fin sg mg) s w = .inf false) ∧
  (∀ (s : Byte) (w : Word), 0 < s.toNat → F32.ofBits w = .inf true →
    macStep (.inf false) s w = .nan) ∧
  (∀ (acc : F32) (s : Byte) (w : Word), F32.ofBits w = .nan → macStep acc s w = .nan) ∧
  (∀ (s : Byte) (w : Word), macStep .nan s w = .nan) ∧
  (∀ s : Byte, macStep F32.zero s 0x3F800000#32 = u8ToF32 s) ∧
  (∀ (w : Word) (neg : Bool) (m : Nat), F32.ofBits w = .fin neg m → 0 < m → m < 2 ^ 23 →
    macStep (F32.ofBits 0x3F000000#32) 1#8 w = F32.ofBits 0x3F000000#32)

/-- R190: `sat8` by ranges of the real value x of a non-NaN, in halves: x is `signedMag neg mag` units
of 2^−149 and 0.5 is 2^148 of them. -/
def Obligations.SaturationByRanges : Prop :=
  sat8 (.inf false) = 255#8 ∧ sat8 (.inf true) = 0#8 ∧
  ∀ (neg : Bool) (mag : Nat) (x : Int), x = signedMag neg mag →
    (x ≤ 2 ^ 148 → sat8 (.fin neg mag) = 0#8) ∧
    (∀ n : Nat, 1 ≤ n → n ≤ 254 → (2 * n - 1) * 2 ^ 148 < x → x < (2 * n + 1) * 2 ^ 148 →
      sat8 (.fin neg mag) = BitVec.ofNat 8 n) ∧
    (∀ n : Nat, 1 ≤ n → n ≤ 254 → n % 2 = 0 →
      x = (2 * n - 1) * 2 ^ 148 ∨ x = (2 * n + 1) * 2 ^ 148 →
      sat8 (.fin neg mag) = BitVec.ofNat 8 n) ∧
    (509 * 2 ^ 148 < x → sat8 (.fin neg mag) = 255#8)

/-- R191: every sample comes back from its conversion; `sat8` is non-decreasing on the values that are
no NaN; it gives n within less than one half of n; both zeros give 0; `NV` is set if and only if the
value is a NaN. Values are in units of 2^−149, in which 0.5 is 2^148. -/
def Obligations.SaturationKeepsSamplesAndOrder : Prop :=
  (∀ s : Byte, sat8 (u8ToF32 s) = s) ∧
  (∀ (n1 n2 : Bool) (m1 m2 : Nat), signedMag n1 m1 ≤ signedMag n2 m2 →
    (sat8 (.fin n1 m1)).toNat ≤ (sat8 (.fin n2 m2)).toNat) ∧
  (∀ x : F32, (sat8 (.inf true)).toNat ≤ (sat8 x).toNat ∧ (sat8 x).toNat ≤ (sat8 (.inf false)).toNat) ∧
  (∀ (neg : Bool) (mag n : Nat), n ≤ 255 → (signedMag neg mag - n * 2 ^ 149).natAbs < 2 ^ 148 →
    sat8 (.fin neg mag) = BitVec.ofNat 8 n) ∧
  (∀ neg, sat8 (.fin neg 0) = 0#8) ∧
  (∀ (x : F32) (nv : Bool), nvAfter x nv = true ↔ nv = true ∨ x = .nan)

/-! ## Memories -/

/-- Two pixel memories in canonical form that read alike at every address are the same list, so equal
memories are equal data. -/
def Obligations.CanonicalMemoriesAreEqualWhenTheyReadAlike : Prop :=
  ∀ m₁ m₂ : List Host.Cell, Memory.wf m₁ = true → Memory.wf m₂ = true →
    (∀ x, Cells.read Config.pmemPowerOn m₁ x = Cells.read Config.pmemPowerOn m₂ x) → m₁ = m₂

/-- R216, R66: `DstAddr` maps the W·H·C triples one to one onto the destination region. -/
def Obligations.DestinationAddressesAreABijection : Prop :=
  ∀ s : State,
    (∀ x, s.inDest x ↔ ∃ i j c, i < s.w ∧ j < s.h ∧ c < s.chans ∧ s.dstAddr i j c = x) ∧
    (∀ i j c i' j' c', i < s.w → j < s.h → c < s.chans → i' < s.w → j' < s.h → c' < s.chans →
      s.dstAddr i j c = s.dstAddr i' j' c' → i = i' ∧ j = j' ∧ c = c')

/-! ## Invariants and whole-machine rules -/

/-- The invariant holds right after reset, whatever the platform's `PMEM_BYTES` and whatever the host
does next. -/
def Obligations.ResetSatisfiesTheInvariant : Prop :=
  ∀ (cfg : Config) (es : List Event), cfg.wellFormed = true →
    ({ State.reset with cfg := cfg, events := es } : State).Inv

/-- R46, R57, R213, R214 and the canonical form of the memories: every step of every agent, from every
state that satisfies the invariant, leads to one that does. -/
def Obligations.EveryStepKeepsTheInvariant : Prop :=
  ∀ s t : State, s.Inv → step s = .next t → t.Inv

/-- R217, R69: from a state that satisfies the invariant no sequence of steps, of the host, the engine
and `rst` in any order, ever ends in a fault, and every state it reaches satisfies the invariant. -/
def Obligations.NoInterleavingFaults : Prop :=
  ∀ (s : State) (n : Nat), s.Inv → safeOutcome (Host.Core.run core n s)

/-- R69: during a run the address a tap reads lies in the source region, the address an `OUT` writes in
the destination region, and both regions inside `PMEM`, below 2^32. -/
def Obligations.EngineAddressesStayInTheirRegions : Prop :=
  ∀ s : State, s.Inv → s.status.busy = true →
    s.src ≤ s.tapAddr ∧ s.tapAddr < s.src + s.bufBytes ∧ s.src + s.bufBytes ≤ s.cfg.pmemBytes ∧
    s.dst ≤ s.outAddr ∧ s.outAddr < s.dst + s.bufBytes ∧ s.dst + s.bufBytes ≤ s.cfg.pmemBytes ∧
    s.cfg.pmemBytes ≤ 2 ^ 32

/-- R74: the engine's turn changes no byte of `PMEM` outside the destination region, and so none of the
source region. -/
def Obligations.EngineWritesOnlyTheDestination : Prop :=
  ∀ s t : State, s.Inv → s.engineNext → step s = .next t →
    (∀ x, ¬ s.inDest x → t.pmemByte x = s.pmemByte x) ∧
    (∀ x, s.status.busy = true → s.inSource x → t.pmemByte x = s.pmemByte x)

/-- R30, R35, R48: the engine's turn writes no operand register, not `CTRL`, no weight, no error flag
and not `WIGN`. -/
def Obligations.EngineTurnLeavesRegistersAndWeights : Prop :=
  ∀ s t : State, s.engineNext → step s = .next t →
    t.cfg = s.cfg ∧ t.ctrl = s.ctrl ∧ t.width = s.width ∧ t.height = s.height ∧
    t.ksize = s.ksize ∧ t.srcBase = s.srcBase ∧ t.dstBase = s.dstBase ∧ t.kaddr = s.kaddr ∧
    t.kmem = s.kmem ∧ t.epoch = s.epoch ∧ t.reply = s.reply ∧ t.status.err = s.status.err ∧
    t.status.errcode = s.status.errcode ∧ t.status.wign = s.status.wign

/-- R30, R63, R78, R119, R284: while `BUSY` = 1 no move of the host changes a register, a weight or the
hidden state; of `STATUS` it sets `WIGN` if it writes a register, and nothing else. A pixel write changes
the byte it addresses and no other, and every other move leaves `PMEM` as it was; a pixel read replies that
byte, a register read some word (R112), and every other move leaves the reply as it was. -/
def Obligations.HostMovesCannotTouchARun : Prop :=
  ∀ (s t : State) (e : Event) (rest : List Event), s.status.busy = true →
    s.events = e :: rest → e ≠ .engine → e ≠ .rst → step s = .next t →
    (∃ reply pmem, t = { s with
      status := { s.status with wign := s.status.wign || writesRegister e }
      reply := reply, pmem := pmem, events := rest }) ∧
    (∀ addr data, e = .px 1#1 addr data →
      t.reply = s.reply ∧
      ∀ x, t.pmemByte x = if x = addr.toNat then data else s.pmemByte x) ∧
    (∀ addr data, e = .px 0#1 addr data →
      t.pmem = s.pmem ∧ t.reply = some (.byte (s.pmemByte addr.toNat))) ∧
    (∀ h d, e = .rx h d →
      t.pmem = s.pmem ∧
      (h.getLsbD 4 = true → t.reply = s.reply) ∧
      (h.getLsbD 4 = false → ∃ v, t.reply = some (.word v))) ∧
    (∀ w, e = .cmdw w → t.pmem = s.pmem ∧ t.reply = s.reply)

/-- The platform's parameters never change (R15). -/
def Obligations.ParametersNeverChange : Prop :=
  ∀ s t : State, step s = .next t → t.cfg = s.cfg

/-- R240, R258: `ERR` rises, or a standing `ERRCODE` changes to another error's, only in a write to
`CMD` accepted while `BUSY` = 0. -/
def Obligations.ErrorsArriveOnlyWithCommands : Prop :=
  ∀ s t : State, step s = .next t → t.status.err = true →
    s.status.err = false ∨ t.status.errcode ≠ s.status.errcode →
    s.status.busy = false ∧ s.cmdNext

/-- R39: `BUSY` rises only by a `START` whose checks all pass, and falls only by the `OUT` of the last
sample, which sets `DONE` (R40), or by `rst`, after which `DONE` is 0 (R276). -/
def Obligations.BusyRisesByStartAndFallsByFinishOrReset : Prop :=
  ∀ s t : State, s.Inv → step s = .next t →
    (s.status.busy = false → t.status.busy = true →
      startCheck s = none ∧
      ∃ rest, s.events = .rx 0b10100#5 1#32 :: rest ∨ s.events = .cmdw 1#32 :: rest) ∧
    (s.status.busy = true → t.status.busy = false →
      (s.engineNext ∧ s.seq.phase = .out ∧ s.lastSample ∧ t.status.done = true) ∨
      ((∃ rest, s.events = .rst :: rest) ∧ t.status.done = false))

/-- R56, R259, R260: `irq` is `IE` and (`DONE` or `ERR`); it rises only by the end of a run, by a write
to `CMD` while idle, or by a write of `CTRL` while idle. -/
def Obligations.IrqRisesOnlyForItsCauses : Prop :=
  (∀ s : State, s.irq = true ↔
    s.ctrl.ie = true ∧ (s.status.done = true ∨ s.status.err = true)) ∧
  (∀ s t : State, step s = .next t → s.irq = false → t.irq = true →
    (s.engineNext ∧ s.status.busy = true ∧ s.seq.phase = .out ∧ t.status.done = true) ∨
    (s.status.busy = false ∧ s.cmdNext) ∨
    (s.status.busy = false ∧ ∃ data rest, s.events = .rx 0b10010#5 data :: rest))

/-! ## Whole runs -/

/-- R147, R208: the C·K² `FILL` steps of one output pixel materialise its window, every entry with the
padded sample of its own tap and channel, before the first `RED`; every other entry of `WIN` reads as
before and nothing else changes. -/
def Obligations.FillMaterialisesTheWindow : Prop :=
  ∀ s : State, s.Inv → s.status.busy = true → s.seq.phase = .fill → s.seq.ch = 0#2 →
    s.seq.a = 0#7 → s.seq.b = 0#7 → s.events = [] →
    ∃ t, Host.Core.run core (s.chans * s.k ^ 2) s = .next t ∧ t.seq = { s.seq with phase := .red } ∧
      (∀ a b c, a < s.k → b < s.k → c < s.chans →
        t.winByte a b c = s.paddedSample s.seq.i.toNat s.seq.j.toNat c a b) ∧
      (∀ a b c, a ≤ 100 → b ≤ 100 → c ≤ 2 → ¬ (a < s.k ∧ b < s.k ∧ c < s.chans) →
        t.winByte a b c = s.winByte a b c) ∧
      { t with win := s.win, seq := s.seq } = s

/-- An accepted `START` of a silent host leaves the state a run begins in (R115 step 7). -/
def Obligations.AcceptedStartBeginsARun : Prop :=
  ∀ s : State, s.Inv → s.status.busy = false → startCheck s = none → s.events = [] →
    ∃ t, exec .start s = .next t ∧ t.runBegins ∧
      t = { s with
        status := t.status, seq := t.seq, acc := t.acc }

/-- R215, R217: a run of either strategy is busy for exactly W·H·C·(2·K² + 1) engine steps and then
done. -/
def Obligations.RunTakesExactlyItsSteps : Prop :=
  ∀ s : State, s.runBegins →
    (∀ n, n < s.w * s.h * s.chans * (2 * s.k ^ 2 + 1) →
      ∃ t, Host.Core.run core n s = .next t ∧ t.status.busy = true ∧ t.status.done = false) ∧
    ∃ t, Host.Core.run core (s.w * s.h * s.chans * (2 * s.k ^ 2 + 1)) s = .next t ∧
      t.status.busy = false ∧ t.status.done = true ∧ t.seq = Seq.zero

/-- R220: when the run is done, every destination byte is `CONV` of the source region and the weights
as they stood when it began, every byte outside the destination region is as it was, `NV` is set if and
only if some sum is a NaN, and no register has changed but `STATUS`. -/
def Obligations.RunComputesTheConvolution : Prop :=
  ∀ s : State, s.runBegins →
    ∃ t, Host.Core.run core s.runSteps s = .next t ∧
      (∀ i j c, i < s.w → j < s.h → c < s.chans →
        t.pmemByte (s.dstAddr i j c) = sat8 (s.convAcc i j c)) ∧
      (∀ x, ¬ s.inDest x → t.pmemByte x = s.pmemByte x) ∧
      (t.status.nv = true ↔ ∃ i j c, i < s.w ∧ j < s.h ∧ c < s.chans ∧ s.convAcc i j c = .nan) ∧
      t.status = { Status.zero with done := true, nv := t.status.nv } ∧
      (∃ pmem sample win, t = { s with
        status := t.status, seq := Seq.zero, acc := F32.zero
        pmem := pmem, sample := sample, win := win })

/-- R220, R282 to R285: the same when the host is active during the run, in any interleaving, as long as
it keeps its pixel writes out of the two regions: in the step that ends the run every destination byte is
`CONV` of the source and weights as they stood at the start, a byte outside the destination that the host
did not write is as it was, `NV` says whether some sum is a NaN, `WIGN` whether the host wrote a register,
and `irq` is up if it is enabled. -/
def Obligations.RunIgnoresTheHostElsewhere : Prop :=
  ∀ (s : State) (es rest : List Event), s.Inv → s.status = { Status.zero with busy := true } →
    s.seq = firstSeq s.ctrl.strat → s.events = es ++ .engine :: rest →
    es.count .engine + 1 = s.runSteps → (∀ e ∈ es, s.quiet e) →
    ∃ t, Host.Core.run core (es.length + 1) s = .next t ∧ t.events = rest ∧ t.seq = Seq.zero ∧
      (∀ i j c, i < s.w → j < s.h → c < s.chans →
        t.pmemByte (s.dstAddr i j c) = sat8 (s.convAcc i j c)) ∧
      (∀ x, ¬ s.inDest x → (∀ a d, Event.px 1#1 a d ∈ es → a.toNat ≠ x) →
        t.pmemByte x = s.pmemByte x) ∧
      (t.status.nv = true ↔ ∃ i j c, i < s.w ∧ j < s.h ∧ c < s.chans ∧ s.convAcc i j c = .nan) ∧
      (t.status.wign = true ↔ ∃ e ∈ es, writesRegister e = true) ∧
      t.status = { Status.zero with done := true, nv := t.status.nv, wign := t.status.wign } ∧
      t.irq = s.ctrl.ie

/-- R218: two runs that differ in the strategy, over the same operands, source bytes and weights, end
with the same bytes everywhere and the same `NV`. -/
def Obligations.StrategiesGiveTheSameResult : Prop :=
  ∀ s₁ s₂ : State, s₁.runBegins → s₂.runBegins →
    s₁.ctrl.rgb = s₂.ctrl.rgb → s₁.width = s₂.width → s₁.height = s₂.height →
    s₁.ksize = s₂.ksize → s₁.srcBase = s₂.srcBase → s₁.dstBase = s₂.dstBase →
    (∀ x, s₁.pmemByte x = s₂.pmemByte x) → (∀ n, s₁.kmemWord n = s₂.kmemWord n) →
    ∃ t₁ t₂, Host.Core.run core s₁.runSteps s₁ = .next t₁ ∧
      Host.Core.run core s₂.runSteps s₂ = .next t₂ ∧
      (∀ x, t₁.pmemByte x = t₂.pmemByte x) ∧ t₁.status.nv = t₂.status.nv

/-- R222: with weight 1.0 at the centre and a zero of either sign everywhere else, the run copies the
source buffer to the destination, for every accepted size. -/
def Obligations.IdentityKernelReproducesTheSource : Prop :=
  ∀ s : State, s.runBegins →
    (∀ a b, a < s.k → b < s.k →
      if a = s.radius ∧ b = s.radius then s.kmemWord (a * s.k + b) = 0x3F800000#32
      else s.kmemWord (a * s.k + b) = 0x00000000#32 ∨ s.kmemWord (a * s.k + b) = 0x80000000#32) →
    ∃ t, Host.Core.run core s.runSteps s = .next t ∧
      ∀ i j c, i < s.w → j < s.h → c < s.chans →
        t.pmemByte (s.dstAddr i j c) = s.pmemByte (s.srcAddr i j c)
end

