-- ==== Sys2Proof/Laws/Cells.lean ====
section
/-! SUPPORT. The laws of the sparse memories: a read after a write, and that every memory operation keeps
the canonical form (spec/20_memory.md R70). -/

namespace Sys2Proof.Machine

section
variable {w : Nat} (dflt : Nat → BitVec w)

theorem Cells.read_put_same (l : List (Nat × BitVec w)) (n : Nat) (v : BitVec w) :
    Cells.read dflt (Cells.put n v l) n = v := by
  induction l with
  | nil => simp [Cells.put, Cells.read]
  | cons c rest ih =>
    simp only [Cells.put]
    split
    · simp [Cells.read]
    · split
      · simp [Cells.read]
      · rename_i h; simp [Cells.read, h, ih]

theorem Cells.read_put_other (l : List (Nat × BitVec w)) {n m : Nat} (v : BitVec w) (h : m ≠ n) :
    Cells.read dflt (Cells.put n v l) m = Cells.read dflt l m := by
  induction l with
  | nil => simp [Cells.put, Cells.read, h]
  | cons c rest ih =>
    simp only [Cells.put]
    split
    · simp [Cells.read, h]
    · split
      · rename_i hc; subst hc; simp [Cells.read, h]
      · simp [Cells.read, ih]

theorem Cells.read_drop_same (l : List (Nat × BitVec w)) (n : Nat) :
    Cells.read dflt (Cells.drop n l) n = dflt n := by
  induction l with
  | nil => rfl
  | cons c rest ih =>
    simp only [Cells.drop]
    split
    · exact ih
    · rename_i h; simp [Cells.read, h, ih]

theorem Cells.read_drop_other (l : List (Nat × BitVec w)) {n m : Nat} (h : m ≠ n) :
    Cells.read dflt (Cells.drop n l) m = Cells.read dflt l m := by
  induction l with
  | nil => rfl
  | cons c rest ih =>
    simp only [Cells.drop]
    split
    · rename_i hc; subst hc; simp [Cells.read, h, ih]
    · simp [Cells.read, ih]

/-- A read of the place just written gives the value written. -/
@[simp] theorem Cells.read_write_same (l : List (Nat × BitVec w)) (n : Nat) (v : BitVec w) :
    Cells.read dflt (Cells.write dflt l n v) n = v := by
  unfold Cells.write
  split
  · rename_i h; rw [h]; exact Cells.read_drop_same dflt l n
  · exact Cells.read_put_same dflt l n v

/-- A write leaves every other place alone. -/
theorem Cells.read_write_other (l : List (Nat × BitVec w)) {n m : Nat} (v : BitVec w) (h : m ≠ n) :
    Cells.read dflt (Cells.write dflt l n v) m = Cells.read dflt l m := by
  unfold Cells.write
  split
  · exact Cells.read_drop_other dflt l h
  · exact Cells.read_put_other dflt l v h

/-- Both cases of a read after a write. -/
theorem Cells.read_write (l : List (Nat × BitVec w)) (n m : Nat) (v : BitVec w) :
    Cells.read dflt (Cells.write dflt l n v) m = if m = n then v else Cells.read dflt l m := by
  split
  · rename_i h; subst h; simp
  · rename_i h; exact Cells.read_write_other dflt l v h

theorem Cells.all_put {p : Nat × BitVec w → Bool} {l : List (Nat × BitVec w)} {n : Nat}
    {v : BitVec w} (hl : l.all p = true) (hp : p (n, v) = true) : (Cells.put n v l).all p = true := by
  induction l with
  | nil => simp [Cells.put, hp]
  | cons c rest ih =>
    simp only [List.all_cons, Bool.and_eq_true] at hl
    simp only [Cells.put]
    split
    · simp [hp, hl.1, hl.2]
    · split
      · simp [hp, hl.2]
      · simp [hl.1, ih hl.2]

theorem Cells.all_drop {p : Nat × BitVec w → Bool} {l : List (Nat × BitVec w)} (n : Nat)
    (hl : l.all p = true) : (Cells.drop n l).all p = true := by
  induction l with
  | nil => rfl
  | cons c rest ih =>
    simp only [List.all_cons, Bool.and_eq_true] at hl
    simp only [Cells.drop]
    split
    · exact ih hl.2
    · simp [hl.1, ih hl.2]

theorem Cells.wf_cons {c : Nat × BitVec w} {rest : List (Nat × BitVec w)} :
    Cells.wf dflt (c :: rest) = true ↔
      rest.all (fun d => decide (c.1 < d.1)) = true ∧ c.2 ≠ dflt c.1 ∧ Cells.wf dflt rest = true := by
  simp [Cells.wf, Bool.and_eq_true, and_assoc]

theorem Cells.wf_put {l : List (Nat × BitVec w)} {n : Nat} {v : BitVec w} (hv : v ≠ dflt n)
    (hl : Cells.wf dflt l = true) : Cells.wf dflt (Cells.put n v l) = true := by
  induction l with
  | nil => simp [Cells.put, Cells.wf, hv]
  | cons c rest ih =>
    obtain ⟨hlt, hne, hrest⟩ := (Cells.wf_cons dflt).1 hl
    simp only [Cells.put]
    split
    · rename_i hn
      refine (Cells.wf_cons dflt).2 ⟨?_, hv, hl⟩
      simp only [List.all_cons, Bool.and_eq_true, decide_eq_true_eq]
      refine ⟨hn, ?_⟩
      simp only [List.all_eq_true, decide_eq_true_eq] at hlt ⊢
      exact fun d hd => Nat.lt_trans hn (hlt d hd)
    · split
      · rename_i hn
        exact (Cells.wf_cons dflt).2 ⟨by simpa [hn] using hlt, hv, hrest⟩
      · refine (Cells.wf_cons dflt).2 ⟨Cells.all_put hlt ?_, hne, ih hrest⟩
        simp only [decide_eq_true_eq]; omega

theorem Cells.wf_drop {l : List (Nat × BitVec w)} (n : Nat) (hl : Cells.wf dflt l = true) :
    Cells.wf dflt (Cells.drop n l) = true := by
  induction l with
  | nil => rfl
  | cons c rest ih =>
    obtain ⟨hlt, hne, hrest⟩ := (Cells.wf_cons dflt).1 hl
    simp only [Cells.drop]
    split
    · exact ih hrest
    · exact (Cells.wf_cons dflt).2 ⟨Cells.all_drop n hlt, hne, ih hrest⟩

/-- A write keeps the canonical form. -/
theorem Cells.wf_write {l : List (Nat × BitVec w)} (n : Nat) (v : BitVec w)
    (hl : Cells.wf dflt l = true) : Cells.wf dflt (Cells.write dflt l n v) = true := by
  unfold Cells.write
  split
  · exact Cells.wf_drop dflt n hl
  · rename_i h; exact Cells.wf_put dflt h hl

/-- A write inside a memory lists nothing outside it. -/
theorem Cells.below_write {l : List (Nat × BitVec w)} {size n : Nat} (v : BitVec w)
    (hl : Cells.below size l = true) (hn : n < size) :
    Cells.below size (Cells.write dflt l n v) = true := by
  unfold Cells.write
  split
  · exact Cells.all_drop n hl
  · exact Cells.all_put hl (by simpa using hn)

end

/-! ### The three memories -/

theorem State.pmemByte_setPmemByte (s : State) (n m : Nat) (v : Byte) :
    (s.setPmemByte n v).pmemByte m = if m = n then v else s.pmemByte m :=
  Cells.read_write _ _ _ _ _

theorem State.kmemWord_setKmemWord (s : State) (n m : Nat) (v : Word) :
    (s.setKmemWord n v).kmemWord m = if m = n then v else s.kmemWord m :=
  Cells.read_write _ _ _ _ _

theorem State.winByte_setWinByte (s : State) (a b c a' b' c' : Nat) (v : Byte) :
    (s.setWinByte a b c v).winByte a' b' c' =
      if winIndex a' b' c' = winIndex a b c then v else s.winByte a' b' c' :=
  Cells.read_write _ _ _ _ _

/-- Two entries that exist share a place only if they are the same entry. -/
theorem winIndex_inj {a b c a' b' c' : Nat} (h : winHas a b c = true) (h' : winHas a' b' c' = true)
    (he : winIndex a b c = winIndex a' b' c') : a = a' ∧ b = b' ∧ c = c' := by
  simp only [winHas, Bool.and_eq_true, decide_eq_true_eq] at h h'
  simp only [winIndex] at he
  omega

theorem winIndex_lt {a b c : Nat} (h : winHas a b c = true) : winIndex a b c < 30603 := by
  simp only [winHas, Bool.and_eq_true, decide_eq_true_eq] at h
  simp only [winIndex]
  omega

theorem reset_memInv : State.reset.MemInv := ⟨rfl, rfl, rfl, rfl, rfl, rfl⟩

theorem MemInv.setPmemByte {s : State} (h : s.MemInv) {n : Nat} (v : Byte)
    (hn : n < s.cfg.pmemBytes) : (s.setPmemByte n v).MemInv :=
  { h with
    pmemForm := Cells.wf_write _ n v h.pmemForm
    pmemBelow := Cells.below_write _ v h.pmemBelow hn }

theorem MemInv.setKmemWord {s : State} (h : s.MemInv) {n : Nat} (v : Word)
    (hn : n < Config.kmemDepth) : (s.setKmemWord n v).MemInv :=
  { h with
    kmemForm := Cells.wf_write _ n v h.kmemForm
    kmemBelow := Cells.below_write _ v h.kmemBelow hn }

theorem MemInv.setWinByte {s : State} (h : s.MemInv) {a b c : Nat} (v : Byte)
    (hn : winHas a b c = true) : (s.setWinByte a b c v).MemInv :=
  { h with
    winForm := Cells.wf_write _ _ v h.winForm
    winBelow := Cells.below_write _ v h.winBelow (winIndex_lt hn) }

theorem MemInv.hardReset {s : State} (h : s.MemInv) : (hardReset s).MemInv :=
  { pmemForm := h.pmemForm
    pmemBelow := h.pmemBelow
    kmemForm := rfl
    kmemBelow := rfl
    winForm := rfl
    winBelow := rfl }

end Sys2Proof.Machine
end

