-- ==== Sys2Proof/Laws/State.lean ====
section
/-! SUPPORT. One lemma per field per update of the state, each true by rfl, so that no later proof
unfolds a record update. -/

namespace Sys2Proof.Machine

/-! ### `State.setPmemByte` -/

@[simp] theorem State.setPmemByte_cfg (s : State) (addr : Nat) (v : Byte) : (s.setPmemByte addr v).cfg = s.cfg := rfl
@[simp] theorem State.setPmemByte_ctrl (s : State) (addr : Nat) (v : Byte) : (s.setPmemByte addr v).ctrl = s.ctrl := rfl
@[simp] theorem State.setPmemByte_status (s : State) (addr : Nat) (v : Byte) : (s.setPmemByte addr v).status = s.status := rfl
@[simp] theorem State.setPmemByte_width (s : State) (addr : Nat) (v : Byte) : (s.setPmemByte addr v).width = s.width := rfl
@[simp] theorem State.setPmemByte_height (s : State) (addr : Nat) (v : Byte) : (s.setPmemByte addr v).height = s.height := rfl
@[simp] theorem State.setPmemByte_ksize (s : State) (addr : Nat) (v : Byte) : (s.setPmemByte addr v).ksize = s.ksize := rfl
@[simp] theorem State.setPmemByte_srcBase (s : State) (addr : Nat) (v : Byte) : (s.setPmemByte addr v).srcBase = s.srcBase := rfl
@[simp] theorem State.setPmemByte_dstBase (s : State) (addr : Nat) (v : Byte) : (s.setPmemByte addr v).dstBase = s.dstBase := rfl
@[simp] theorem State.setPmemByte_kaddr (s : State) (addr : Nat) (v : Byte) : (s.setPmemByte addr v).kaddr = s.kaddr := rfl
@[simp] theorem State.setPmemByte_kmem (s : State) (addr : Nat) (v : Byte) : (s.setPmemByte addr v).kmem = s.kmem := rfl
@[simp] theorem State.setPmemByte_seq (s : State) (addr : Nat) (v : Byte) : (s.setPmemByte addr v).seq = s.seq := rfl
@[simp] theorem State.setPmemByte_acc (s : State) (addr : Nat) (v : Byte) : (s.setPmemByte addr v).acc = s.acc := rfl
@[simp] theorem State.setPmemByte_sample (s : State) (addr : Nat) (v : Byte) : (s.setPmemByte addr v).sample = s.sample := rfl
@[simp] theorem State.setPmemByte_win (s : State) (addr : Nat) (v : Byte) : (s.setPmemByte addr v).win = s.win := rfl
@[simp] theorem State.setPmemByte_pmem (s : State) (addr : Nat) (v : Byte) : (s.setPmemByte addr v).pmem = Cells.write Config.pmemPowerOn s.pmem addr v := rfl
@[simp] theorem State.setPmemByte_epoch (s : State) (addr : Nat) (v : Byte) : (s.setPmemByte addr v).epoch = s.epoch := rfl
@[simp] theorem State.setPmemByte_reply (s : State) (addr : Nat) (v : Byte) : (s.setPmemByte addr v).reply = s.reply := rfl
@[simp] theorem State.setPmemByte_events (s : State) (addr : Nat) (v : Byte) : (s.setPmemByte addr v).events = s.events := rfl

/-! ### `State.setKmemWord` -/

@[simp] theorem State.setKmemWord_cfg (s : State) (n : Nat) (v : Word) : (s.setKmemWord n v).cfg = s.cfg := rfl
@[simp] theorem State.setKmemWord_ctrl (s : State) (n : Nat) (v : Word) : (s.setKmemWord n v).ctrl = s.ctrl := rfl
@[simp] theorem State.setKmemWord_status (s : State) (n : Nat) (v : Word) : (s.setKmemWord n v).status = s.status := rfl
@[simp] theorem State.setKmemWord_width (s : State) (n : Nat) (v : Word) : (s.setKmemWord n v).width = s.width := rfl
@[simp] theorem State.setKmemWord_height (s : State) (n : Nat) (v : Word) : (s.setKmemWord n v).height = s.height := rfl
@[simp] theorem State.setKmemWord_ksize (s : State) (n : Nat) (v : Word) : (s.setKmemWord n v).ksize = s.ksize := rfl
@[simp] theorem State.setKmemWord_srcBase (s : State) (n : Nat) (v : Word) : (s.setKmemWord n v).srcBase = s.srcBase := rfl
@[simp] theorem State.setKmemWord_dstBase (s : State) (n : Nat) (v : Word) : (s.setKmemWord n v).dstBase = s.dstBase := rfl
@[simp] theorem State.setKmemWord_kaddr (s : State) (n : Nat) (v : Word) : (s.setKmemWord n v).kaddr = s.kaddr := rfl
@[simp] theorem State.setKmemWord_kmem (s : State) (n : Nat) (v : Word) : (s.setKmemWord n v).kmem = Cells.write (Config.kmemAfterReset s.epoch) s.kmem n v := rfl
@[simp] theorem State.setKmemWord_seq (s : State) (n : Nat) (v : Word) : (s.setKmemWord n v).seq = s.seq := rfl
@[simp] theorem State.setKmemWord_acc (s : State) (n : Nat) (v : Word) : (s.setKmemWord n v).acc = s.acc := rfl
@[simp] theorem State.setKmemWord_sample (s : State) (n : Nat) (v : Word) : (s.setKmemWord n v).sample = s.sample := rfl
@[simp] theorem State.setKmemWord_win (s : State) (n : Nat) (v : Word) : (s.setKmemWord n v).win = s.win := rfl
@[simp] theorem State.setKmemWord_pmem (s : State) (n : Nat) (v : Word) : (s.setKmemWord n v).pmem = s.pmem := rfl
@[simp] theorem State.setKmemWord_epoch (s : State) (n : Nat) (v : Word) : (s.setKmemWord n v).epoch = s.epoch := rfl
@[simp] theorem State.setKmemWord_reply (s : State) (n : Nat) (v : Word) : (s.setKmemWord n v).reply = s.reply := rfl
@[simp] theorem State.setKmemWord_events (s : State) (n : Nat) (v : Word) : (s.setKmemWord n v).events = s.events := rfl

/-! ### `State.setWinByte` -/

@[simp] theorem State.setWinByte_cfg (s : State) (a b c : Nat) (v : Byte) : (s.setWinByte a b c v).cfg = s.cfg := rfl
@[simp] theorem State.setWinByte_ctrl (s : State) (a b c : Nat) (v : Byte) : (s.setWinByte a b c v).ctrl = s.ctrl := rfl
@[simp] theorem State.setWinByte_status (s : State) (a b c : Nat) (v : Byte) : (s.setWinByte a b c v).status = s.status := rfl
@[simp] theorem State.setWinByte_width (s : State) (a b c : Nat) (v : Byte) : (s.setWinByte a b c v).width = s.width := rfl
@[simp] theorem State.setWinByte_height (s : State) (a b c : Nat) (v : Byte) : (s.setWinByte a b c v).height = s.height := rfl
@[simp] theorem State.setWinByte_ksize (s : State) (a b c : Nat) (v : Byte) : (s.setWinByte a b c v).ksize = s.ksize := rfl
@[simp] theorem State.setWinByte_srcBase (s : State) (a b c : Nat) (v : Byte) : (s.setWinByte a b c v).srcBase = s.srcBase := rfl
@[simp] theorem State.setWinByte_dstBase (s : State) (a b c : Nat) (v : Byte) : (s.setWinByte a b c v).dstBase = s.dstBase := rfl
@[simp] theorem State.setWinByte_kaddr (s : State) (a b c : Nat) (v : Byte) : (s.setWinByte a b c v).kaddr = s.kaddr := rfl
@[simp] theorem State.setWinByte_kmem (s : State) (a b c : Nat) (v : Byte) : (s.setWinByte a b c v).kmem = s.kmem := rfl
@[simp] theorem State.setWinByte_seq (s : State) (a b c : Nat) (v : Byte) : (s.setWinByte a b c v).seq = s.seq := rfl
@[simp] theorem State.setWinByte_acc (s : State) (a b c : Nat) (v : Byte) : (s.setWinByte a b c v).acc = s.acc := rfl
@[simp] theorem State.setWinByte_sample (s : State) (a b c : Nat) (v : Byte) : (s.setWinByte a b c v).sample = s.sample := rfl
@[simp] theorem State.setWinByte_win (s : State) (a b c : Nat) (v : Byte) : (s.setWinByte a b c v).win = Cells.write (Config.winAfterReset s.epoch) s.win (winIndex a b c) v := rfl
@[simp] theorem State.setWinByte_pmem (s : State) (a b c : Nat) (v : Byte) : (s.setWinByte a b c v).pmem = s.pmem := rfl
@[simp] theorem State.setWinByte_epoch (s : State) (a b c : Nat) (v : Byte) : (s.setWinByte a b c v).epoch = s.epoch := rfl
@[simp] theorem State.setWinByte_reply (s : State) (a b c : Nat) (v : Byte) : (s.setWinByte a b c v).reply = s.reply := rfl
@[simp] theorem State.setWinByte_events (s : State) (a b c : Nat) (v : Byte) : (s.setWinByte a b c v).events = s.events := rfl

/-! ### `State.setStatus` -/

@[simp] theorem State.setStatus_cfg (s : State) (st : Status) : (s.setStatus st).cfg = s.cfg := rfl
@[simp] theorem State.setStatus_ctrl (s : State) (st : Status) : (s.setStatus st).ctrl = s.ctrl := rfl
@[simp] theorem State.setStatus_status (s : State) (st : Status) : (s.setStatus st).status = st := rfl
@[simp] theorem State.setStatus_width (s : State) (st : Status) : (s.setStatus st).width = s.width := rfl
@[simp] theorem State.setStatus_height (s : State) (st : Status) : (s.setStatus st).height = s.height := rfl
@[simp] theorem State.setStatus_ksize (s : State) (st : Status) : (s.setStatus st).ksize = s.ksize := rfl
@[simp] theorem State.setStatus_srcBase (s : State) (st : Status) : (s.setStatus st).srcBase = s.srcBase := rfl
@[simp] theorem State.setStatus_dstBase (s : State) (st : Status) : (s.setStatus st).dstBase = s.dstBase := rfl
@[simp] theorem State.setStatus_kaddr (s : State) (st : Status) : (s.setStatus st).kaddr = s.kaddr := rfl
@[simp] theorem State.setStatus_kmem (s : State) (st : Status) : (s.setStatus st).kmem = s.kmem := rfl
@[simp] theorem State.setStatus_seq (s : State) (st : Status) : (s.setStatus st).seq = s.seq := rfl
@[simp] theorem State.setStatus_acc (s : State) (st : Status) : (s.setStatus st).acc = s.acc := rfl
@[simp] theorem State.setStatus_sample (s : State) (st : Status) : (s.setStatus st).sample = s.sample := rfl
@[simp] theorem State.setStatus_win (s : State) (st : Status) : (s.setStatus st).win = s.win := rfl
@[simp] theorem State.setStatus_pmem (s : State) (st : Status) : (s.setStatus st).pmem = s.pmem := rfl
@[simp] theorem State.setStatus_epoch (s : State) (st : Status) : (s.setStatus st).epoch = s.epoch := rfl
@[simp] theorem State.setStatus_reply (s : State) (st : Status) : (s.setStatus st).reply = s.reply := rfl
@[simp] theorem State.setStatus_events (s : State) (st : Status) : (s.setStatus st).events = s.events := rfl

/-! ### `State.setSeq` -/

@[simp] theorem State.setSeq_cfg (s : State) (q : Seq) : (s.setSeq q).cfg = s.cfg := rfl
@[simp] theorem State.setSeq_ctrl (s : State) (q : Seq) : (s.setSeq q).ctrl = s.ctrl := rfl
@[simp] theorem State.setSeq_status (s : State) (q : Seq) : (s.setSeq q).status = s.status := rfl
@[simp] theorem State.setSeq_width (s : State) (q : Seq) : (s.setSeq q).width = s.width := rfl
@[simp] theorem State.setSeq_height (s : State) (q : Seq) : (s.setSeq q).height = s.height := rfl
@[simp] theorem State.setSeq_ksize (s : State) (q : Seq) : (s.setSeq q).ksize = s.ksize := rfl
@[simp] theorem State.setSeq_srcBase (s : State) (q : Seq) : (s.setSeq q).srcBase = s.srcBase := rfl
@[simp] theorem State.setSeq_dstBase (s : State) (q : Seq) : (s.setSeq q).dstBase = s.dstBase := rfl
@[simp] theorem State.setSeq_kaddr (s : State) (q : Seq) : (s.setSeq q).kaddr = s.kaddr := rfl
@[simp] theorem State.setSeq_kmem (s : State) (q : Seq) : (s.setSeq q).kmem = s.kmem := rfl
@[simp] theorem State.setSeq_seq (s : State) (q : Seq) : (s.setSeq q).seq = q := rfl
@[simp] theorem State.setSeq_acc (s : State) (q : Seq) : (s.setSeq q).acc = s.acc := rfl
@[simp] theorem State.setSeq_sample (s : State) (q : Seq) : (s.setSeq q).sample = s.sample := rfl
@[simp] theorem State.setSeq_win (s : State) (q : Seq) : (s.setSeq q).win = s.win := rfl
@[simp] theorem State.setSeq_pmem (s : State) (q : Seq) : (s.setSeq q).pmem = s.pmem := rfl
@[simp] theorem State.setSeq_epoch (s : State) (q : Seq) : (s.setSeq q).epoch = s.epoch := rfl
@[simp] theorem State.setSeq_reply (s : State) (q : Seq) : (s.setSeq q).reply = s.reply := rfl
@[simp] theorem State.setSeq_events (s : State) (q : Seq) : (s.setSeq q).events = s.events := rfl

/-! ### `State.setAcc` -/

@[simp] theorem State.setAcc_cfg (s : State) (x : F32) : (s.setAcc x).cfg = s.cfg := rfl
@[simp] theorem State.setAcc_ctrl (s : State) (x : F32) : (s.setAcc x).ctrl = s.ctrl := rfl
@[simp] theorem State.setAcc_status (s : State) (x : F32) : (s.setAcc x).status = s.status := rfl
@[simp] theorem State.setAcc_width (s : State) (x : F32) : (s.setAcc x).width = s.width := rfl
@[simp] theorem State.setAcc_height (s : State) (x : F32) : (s.setAcc x).height = s.height := rfl
@[simp] theorem State.setAcc_ksize (s : State) (x : F32) : (s.setAcc x).ksize = s.ksize := rfl
@[simp] theorem State.setAcc_srcBase (s : State) (x : F32) : (s.setAcc x).srcBase = s.srcBase := rfl
@[simp] theorem State.setAcc_dstBase (s : State) (x : F32) : (s.setAcc x).dstBase = s.dstBase := rfl
@[simp] theorem State.setAcc_kaddr (s : State) (x : F32) : (s.setAcc x).kaddr = s.kaddr := rfl
@[simp] theorem State.setAcc_kmem (s : State) (x : F32) : (s.setAcc x).kmem = s.kmem := rfl
@[simp] theorem State.setAcc_seq (s : State) (x : F32) : (s.setAcc x).seq = s.seq := rfl
@[simp] theorem State.setAcc_acc (s : State) (x : F32) : (s.setAcc x).acc = x := rfl
@[simp] theorem State.setAcc_sample (s : State) (x : F32) : (s.setAcc x).sample = s.sample := rfl
@[simp] theorem State.setAcc_win (s : State) (x : F32) : (s.setAcc x).win = s.win := rfl
@[simp] theorem State.setAcc_pmem (s : State) (x : F32) : (s.setAcc x).pmem = s.pmem := rfl
@[simp] theorem State.setAcc_epoch (s : State) (x : F32) : (s.setAcc x).epoch = s.epoch := rfl
@[simp] theorem State.setAcc_reply (s : State) (x : F32) : (s.setAcc x).reply = s.reply := rfl
@[simp] theorem State.setAcc_events (s : State) (x : F32) : (s.setAcc x).events = s.events := rfl

/-! ### `State.setSample` -/

@[simp] theorem State.setSample_cfg (s : State) (v : Byte) : (s.setSample v).cfg = s.cfg := rfl
@[simp] theorem State.setSample_ctrl (s : State) (v : Byte) : (s.setSample v).ctrl = s.ctrl := rfl
@[simp] theorem State.setSample_status (s : State) (v : Byte) : (s.setSample v).status = s.status := rfl
@[simp] theorem State.setSample_width (s : State) (v : Byte) : (s.setSample v).width = s.width := rfl
@[simp] theorem State.setSample_height (s : State) (v : Byte) : (s.setSample v).height = s.height := rfl
@[simp] theorem State.setSample_ksize (s : State) (v : Byte) : (s.setSample v).ksize = s.ksize := rfl
@[simp] theorem State.setSample_srcBase (s : State) (v : Byte) : (s.setSample v).srcBase = s.srcBase := rfl
@[simp] theorem State.setSample_dstBase (s : State) (v : Byte) : (s.setSample v).dstBase = s.dstBase := rfl
@[simp] theorem State.setSample_kaddr (s : State) (v : Byte) : (s.setSample v).kaddr = s.kaddr := rfl
@[simp] theorem State.setSample_kmem (s : State) (v : Byte) : (s.setSample v).kmem = s.kmem := rfl
@[simp] theorem State.setSample_seq (s : State) (v : Byte) : (s.setSample v).seq = s.seq := rfl
@[simp] theorem State.setSample_acc (s : State) (v : Byte) : (s.setSample v).acc = s.acc := rfl
@[simp] theorem State.setSample_sample (s : State) (v : Byte) : (s.setSample v).sample = v := rfl
@[simp] theorem State.setSample_win (s : State) (v : Byte) : (s.setSample v).win = s.win := rfl
@[simp] theorem State.setSample_pmem (s : State) (v : Byte) : (s.setSample v).pmem = s.pmem := rfl
@[simp] theorem State.setSample_epoch (s : State) (v : Byte) : (s.setSample v).epoch = s.epoch := rfl
@[simp] theorem State.setSample_reply (s : State) (v : Byte) : (s.setSample v).reply = s.reply := rfl
@[simp] theorem State.setSample_events (s : State) (v : Byte) : (s.setSample v).events = s.events := rfl

/-! ### `State.setReply` -/

@[simp] theorem State.setReply_cfg (s : State) (r : Reply) : (s.setReply r).cfg = s.cfg := rfl
@[simp] theorem State.setReply_ctrl (s : State) (r : Reply) : (s.setReply r).ctrl = s.ctrl := rfl
@[simp] theorem State.setReply_status (s : State) (r : Reply) : (s.setReply r).status = s.status := rfl
@[simp] theorem State.setReply_width (s : State) (r : Reply) : (s.setReply r).width = s.width := rfl
@[simp] theorem State.setReply_height (s : State) (r : Reply) : (s.setReply r).height = s.height := rfl
@[simp] theorem State.setReply_ksize (s : State) (r : Reply) : (s.setReply r).ksize = s.ksize := rfl
@[simp] theorem State.setReply_srcBase (s : State) (r : Reply) : (s.setReply r).srcBase = s.srcBase := rfl
@[simp] theorem State.setReply_dstBase (s : State) (r : Reply) : (s.setReply r).dstBase = s.dstBase := rfl
@[simp] theorem State.setReply_kaddr (s : State) (r : Reply) : (s.setReply r).kaddr = s.kaddr := rfl
@[simp] theorem State.setReply_kmem (s : State) (r : Reply) : (s.setReply r).kmem = s.kmem := rfl
@[simp] theorem State.setReply_seq (s : State) (r : Reply) : (s.setReply r).seq = s.seq := rfl
@[simp] theorem State.setReply_acc (s : State) (r : Reply) : (s.setReply r).acc = s.acc := rfl
@[simp] theorem State.setReply_sample (s : State) (r : Reply) : (s.setReply r).sample = s.sample := rfl
@[simp] theorem State.setReply_win (s : State) (r : Reply) : (s.setReply r).win = s.win := rfl
@[simp] theorem State.setReply_pmem (s : State) (r : Reply) : (s.setReply r).pmem = s.pmem := rfl
@[simp] theorem State.setReply_epoch (s : State) (r : Reply) : (s.setReply r).epoch = s.epoch := rfl
@[simp] theorem State.setReply_reply (s : State) (r : Reply) : (s.setReply r).reply = some r := rfl
@[simp] theorem State.setReply_events (s : State) (r : Reply) : (s.setReply r).events = s.events := rfl

/-! ### `State.setEvents` -/

@[simp] theorem State.setEvents_cfg (s : State) (es : List Event) : (s.setEvents es).cfg = s.cfg := rfl
@[simp] theorem State.setEvents_ctrl (s : State) (es : List Event) : (s.setEvents es).ctrl = s.ctrl := rfl
@[simp] theorem State.setEvents_status (s : State) (es : List Event) : (s.setEvents es).status = s.status := rfl
@[simp] theorem State.setEvents_width (s : State) (es : List Event) : (s.setEvents es).width = s.width := rfl
@[simp] theorem State.setEvents_height (s : State) (es : List Event) : (s.setEvents es).height = s.height := rfl
@[simp] theorem State.setEvents_ksize (s : State) (es : List Event) : (s.setEvents es).ksize = s.ksize := rfl
@[simp] theorem State.setEvents_srcBase (s : State) (es : List Event) : (s.setEvents es).srcBase = s.srcBase := rfl
@[simp] theorem State.setEvents_dstBase (s : State) (es : List Event) : (s.setEvents es).dstBase = s.dstBase := rfl
@[simp] theorem State.setEvents_kaddr (s : State) (es : List Event) : (s.setEvents es).kaddr = s.kaddr := rfl
@[simp] theorem State.setEvents_kmem (s : State) (es : List Event) : (s.setEvents es).kmem = s.kmem := rfl
@[simp] theorem State.setEvents_seq (s : State) (es : List Event) : (s.setEvents es).seq = s.seq := rfl
@[simp] theorem State.setEvents_acc (s : State) (es : List Event) : (s.setEvents es).acc = s.acc := rfl
@[simp] theorem State.setEvents_sample (s : State) (es : List Event) : (s.setEvents es).sample = s.sample := rfl
@[simp] theorem State.setEvents_win (s : State) (es : List Event) : (s.setEvents es).win = s.win := rfl
@[simp] theorem State.setEvents_pmem (s : State) (es : List Event) : (s.setEvents es).pmem = s.pmem := rfl
@[simp] theorem State.setEvents_epoch (s : State) (es : List Event) : (s.setEvents es).epoch = s.epoch := rfl
@[simp] theorem State.setEvents_reply (s : State) (es : List Event) : (s.setEvents es).reply = s.reply := rfl
@[simp] theorem State.setEvents_events (s : State) (es : List Event) : (s.setEvents es).events = es := rfl

/-! ### `clearStatus` -/

@[simp] theorem clearStatus_cfg (s : State) : (clearStatus s).cfg = s.cfg := rfl
@[simp] theorem clearStatus_ctrl (s : State) : (clearStatus s).ctrl = s.ctrl := rfl
@[simp] theorem clearStatus_status (s : State) : (clearStatus s).status = Status.zero := rfl
@[simp] theorem clearStatus_width (s : State) : (clearStatus s).width = s.width := rfl
@[simp] theorem clearStatus_height (s : State) : (clearStatus s).height = s.height := rfl
@[simp] theorem clearStatus_ksize (s : State) : (clearStatus s).ksize = s.ksize := rfl
@[simp] theorem clearStatus_srcBase (s : State) : (clearStatus s).srcBase = s.srcBase := rfl
@[simp] theorem clearStatus_dstBase (s : State) : (clearStatus s).dstBase = s.dstBase := rfl
@[simp] theorem clearStatus_kaddr (s : State) : (clearStatus s).kaddr = s.kaddr := rfl
@[simp] theorem clearStatus_kmem (s : State) : (clearStatus s).kmem = s.kmem := rfl
@[simp] theorem clearStatus_seq (s : State) : (clearStatus s).seq = s.seq := rfl
@[simp] theorem clearStatus_acc (s : State) : (clearStatus s).acc = s.acc := rfl
@[simp] theorem clearStatus_sample (s : State) : (clearStatus s).sample = s.sample := rfl
@[simp] theorem clearStatus_win (s : State) : (clearStatus s).win = s.win := rfl
@[simp] theorem clearStatus_pmem (s : State) : (clearStatus s).pmem = s.pmem := rfl
@[simp] theorem clearStatus_epoch (s : State) : (clearStatus s).epoch = s.epoch := rfl
@[simp] theorem clearStatus_reply (s : State) : (clearStatus s).reply = s.reply := rfl
@[simp] theorem clearStatus_events (s : State) : (clearStatus s).events = s.events := rfl

/-! ### `raiseError` -/

@[simp] theorem raiseError_cfg (e : Err) (s : State) : (raiseError e s).cfg = s.cfg := rfl
@[simp] theorem raiseError_ctrl (e : Err) (s : State) : (raiseError e s).ctrl = s.ctrl := rfl
@[simp] theorem raiseError_status (e : Err) (s : State) : (raiseError e s).status = { s.status with err := true, errcode := errCode e } := rfl
@[simp] theorem raiseError_width (e : Err) (s : State) : (raiseError e s).width = s.width := rfl
@[simp] theorem raiseError_height (e : Err) (s : State) : (raiseError e s).height = s.height := rfl
@[simp] theorem raiseError_ksize (e : Err) (s : State) : (raiseError e s).ksize = s.ksize := rfl
@[simp] theorem raiseError_srcBase (e : Err) (s : State) : (raiseError e s).srcBase = s.srcBase := rfl
@[simp] theorem raiseError_dstBase (e : Err) (s : State) : (raiseError e s).dstBase = s.dstBase := rfl
@[simp] theorem raiseError_kaddr (e : Err) (s : State) : (raiseError e s).kaddr = s.kaddr := rfl
@[simp] theorem raiseError_kmem (e : Err) (s : State) : (raiseError e s).kmem = s.kmem := rfl
@[simp] theorem raiseError_seq (e : Err) (s : State) : (raiseError e s).seq = s.seq := rfl
@[simp] theorem raiseError_acc (e : Err) (s : State) : (raiseError e s).acc = s.acc := rfl
@[simp] theorem raiseError_sample (e : Err) (s : State) : (raiseError e s).sample = s.sample := rfl
@[simp] theorem raiseError_win (e : Err) (s : State) : (raiseError e s).win = s.win := rfl
@[simp] theorem raiseError_pmem (e : Err) (s : State) : (raiseError e s).pmem = s.pmem := rfl
@[simp] theorem raiseError_epoch (e : Err) (s : State) : (raiseError e s).epoch = s.epoch := rfl
@[simp] theorem raiseError_reply (e : Err) (s : State) : (raiseError e s).reply = s.reply := rfl
@[simp] theorem raiseError_events (e : Err) (s : State) : (raiseError e s).events = s.events := rfl

/-! ### `softReset` -/

@[simp] theorem softReset_cfg (s : State) : (softReset s).cfg = s.cfg := rfl
@[simp] theorem softReset_ctrl (s : State) : (softReset s).ctrl = Ctrl.zero := rfl
@[simp] theorem softReset_status (s : State) : (softReset s).status = Status.zero := rfl
@[simp] theorem softReset_width (s : State) : (softReset s).width = 0#16 := rfl
@[simp] theorem softReset_height (s : State) : (softReset s).height = 0#16 := rfl
@[simp] theorem softReset_ksize (s : State) : (softReset s).ksize = 0#8 := rfl
@[simp] theorem softReset_srcBase (s : State) : (softReset s).srcBase = 0#32 := rfl
@[simp] theorem softReset_dstBase (s : State) : (softReset s).dstBase = 0#32 := rfl
@[simp] theorem softReset_kaddr (s : State) : (softReset s).kaddr = 0#14 := rfl
@[simp] theorem softReset_kmem (s : State) : (softReset s).kmem = s.kmem := rfl
@[simp] theorem softReset_seq (s : State) : (softReset s).seq = Seq.zero := rfl
@[simp] theorem softReset_acc (s : State) : (softReset s).acc = F32.zero := rfl
@[simp] theorem softReset_sample (s : State) : (softReset s).sample = 0#8 := rfl
@[simp] theorem softReset_win (s : State) : (softReset s).win = s.win := rfl
@[simp] theorem softReset_pmem (s : State) : (softReset s).pmem = s.pmem := rfl
@[simp] theorem softReset_epoch (s : State) : (softReset s).epoch = s.epoch := rfl
@[simp] theorem softReset_reply (s : State) : (softReset s).reply = s.reply := rfl
@[simp] theorem softReset_events (s : State) : (softReset s).events = s.events := rfl

/-! ### `hardReset` -/

@[simp] theorem hardReset_cfg (s : State) : (hardReset s).cfg = s.cfg := rfl
@[simp] theorem hardReset_ctrl (s : State) : (hardReset s).ctrl = Ctrl.zero := rfl
@[simp] theorem hardReset_status (s : State) : (hardReset s).status = Status.zero := rfl
@[simp] theorem hardReset_width (s : State) : (hardReset s).width = 0#16 := rfl
@[simp] theorem hardReset_height (s : State) : (hardReset s).height = 0#16 := rfl
@[simp] theorem hardReset_ksize (s : State) : (hardReset s).ksize = 0#8 := rfl
@[simp] theorem hardReset_srcBase (s : State) : (hardReset s).srcBase = 0#32 := rfl
@[simp] theorem hardReset_dstBase (s : State) : (hardReset s).dstBase = 0#32 := rfl
@[simp] theorem hardReset_kaddr (s : State) : (hardReset s).kaddr = 0#14 := rfl
@[simp] theorem hardReset_kmem (s : State) : (hardReset s).kmem = [] := rfl
@[simp] theorem hardReset_seq (s : State) : (hardReset s).seq = Seq.zero := rfl
@[simp] theorem hardReset_acc (s : State) : (hardReset s).acc = F32.zero := rfl
@[simp] theorem hardReset_sample (s : State) : (hardReset s).sample = 0#8 := rfl
@[simp] theorem hardReset_win (s : State) : (hardReset s).win = [] := rfl
@[simp] theorem hardReset_pmem (s : State) : (hardReset s).pmem = s.pmem := rfl
@[simp] theorem hardReset_epoch (s : State) : (hardReset s).epoch = s.epoch + 1 := rfl
@[simp] theorem hardReset_reply (s : State) : (hardReset s).reply = s.reply := rfl
@[simp] theorem hardReset_events (s : State) : (hardReset s).events = s.events := rfl

/-! ### `beginRun` -/

@[simp] theorem beginRun_cfg (s : State) : (beginRun s).cfg = s.cfg := rfl
@[simp] theorem beginRun_ctrl (s : State) : (beginRun s).ctrl = s.ctrl := rfl
@[simp] theorem beginRun_status (s : State) : (beginRun s).status = { s.status with busy := true } := rfl
@[simp] theorem beginRun_width (s : State) : (beginRun s).width = s.width := rfl
@[simp] theorem beginRun_height (s : State) : (beginRun s).height = s.height := rfl
@[simp] theorem beginRun_ksize (s : State) : (beginRun s).ksize = s.ksize := rfl
@[simp] theorem beginRun_srcBase (s : State) : (beginRun s).srcBase = s.srcBase := rfl
@[simp] theorem beginRun_dstBase (s : State) : (beginRun s).dstBase = s.dstBase := rfl
@[simp] theorem beginRun_kaddr (s : State) : (beginRun s).kaddr = s.kaddr := rfl
@[simp] theorem beginRun_kmem (s : State) : (beginRun s).kmem = s.kmem := rfl
@[simp] theorem beginRun_seq (s : State) : (beginRun s).seq = firstSeq s.ctrl.strat := rfl
@[simp] theorem beginRun_acc (s : State) : (beginRun s).acc = F32.zero := rfl
@[simp] theorem beginRun_sample (s : State) : (beginRun s).sample = s.sample := rfl
@[simp] theorem beginRun_win (s : State) : (beginRun s).win = s.win := rfl
@[simp] theorem beginRun_pmem (s : State) : (beginRun s).pmem = s.pmem := rfl
@[simp] theorem beginRun_epoch (s : State) : (beginRun s).epoch = s.epoch := rfl
@[simp] theorem beginRun_reply (s : State) : (beginRun s).reply = s.reply := rfl
@[simp] theorem beginRun_events (s : State) : (beginRun s).events = s.events := rfl

end Sys2Proof.Machine
end

