-- ==== Sys2Proof/Laws/Ops.lean ====
section
/-! SUPPORT. One lemma for each shared operation, which says once everything it can do; proofs cite it
instead of unfolding the operation. -/

namespace Sys2Proof.Machine

/-! ### Memory primitives -/

theorem State.memRead_eq_some {s : State} {addr : Nat} {v : Byte} :
    s.memRead addr = some v ↔ addr < s.cfg.pmemBytes ∧ v = s.pmemByte addr := by
  unfold State.memRead
  split <;> simp_all [eq_comm]

theorem State.memRead_of_lt {s : State} {addr : Nat} (h : addr < s.cfg.pmemBytes) :
    s.memRead addr = some (s.pmemByte addr) := by simp [State.memRead, h]

theorem State.memRead_of_ge {s : State} {addr : Nat} (h : s.cfg.pmemBytes ≤ addr) :
    s.memRead addr = none := by simp [State.memRead, Nat.not_lt.2 h]

theorem State.memWrite_eq_some {s t : State} {addr : Nat} {v : Byte} :
    s.memWrite addr v = some t ↔ addr < s.cfg.pmemBytes ∧ t = s.setPmemByte addr v := by
  unfold State.memWrite
  split <;> simp_all [eq_comm]

theorem State.memWrite_of_lt {s : State} {addr : Nat} (v : Byte) (h : addr < s.cfg.pmemBytes) :
    s.memWrite addr v = some (s.setPmemByte addr v) := by simp [State.memWrite, h]

theorem State.memWrite_of_ge {s : State} {addr : Nat} (v : Byte) (h : s.cfg.pmemBytes ≤ addr) :
    s.memWrite addr v = none := by simp [State.memWrite, Nat.not_lt.2 h]

theorem State.weight_eq_some {s : State} {n : Nat} {v : Word} :
    s.weight n = some v ↔ n < Config.kmemDepth ∧ v = s.kmemWord n := by
  unfold State.weight
  split <;> simp_all [eq_comm]

theorem State.weight_of_lt {s : State} {n : Nat} (h : n < Config.kmemDepth) :
    s.weight n = some (s.kmemWord n) := by simp [State.weight, h]

theorem State.weight_of_ge {s : State} {n : Nat} (h : Config.kmemDepth ≤ n) :
    s.weight n = none := by simp [State.weight, Nat.not_lt.2 h]

/-! ### Writes while busy -/

theorem acceptWrite_busy (effect : State → State) {s : State} (h : s.status.busy = true) :
    acceptWrite effect s = s.setStatus { s.status with wign := true } := by simp [acceptWrite, h]

theorem acceptWrite_idle (effect : State → State) {s : State} (h : s.status.busy = false) :
    acceptWrite effect s = effect s := by simp [acceptWrite, h]

/-- A register write is dropped with `WIGN`, or it is accepted. -/
theorem acceptWrite_cases (effect : State → State) (s : State) :
    (s.status.busy = true ∧ acceptWrite effect s = s.setStatus { s.status with wign := true }) ∨
    (s.status.busy = false ∧ acceptWrite effect s = effect s) := by
  cases h : s.status.busy
  · exact .inr ⟨rfl, acceptWrite_idle effect h⟩
  · exact .inl ⟨rfl, acceptWrite_busy effect h⟩

/-! ### The engine's enabling -/

theorem whenEnabled_on {p : Phase} {s : State} (k : Host.Outcome State Fault Refusal)
    (hb : s.status.busy = true) (hp : s.seq.phase = p) : whenEnabled p s k = k := by
  simp [whenEnabled, hb, hp]

theorem whenEnabled_off {p : Phase} {s : State} (k : Host.Outcome State Fault Refusal)
    (h : s.status.busy = false ∨ s.seq.phase ≠ p) : whenEnabled p s k = .next s := by
  unfold whenEnabled
  rw [if_neg]
  rintro ⟨hb, hp⟩
  rcases h with h | h
  · simp [hb] at h
  · exact h hp

/-- A micro-operation that reaches a next state changed nothing or was enabled and made its step. -/
theorem whenEnabled_next {p : Phase} {s t : State} {k : Host.Outcome State Fault Refusal}
    (h : whenEnabled p s k = .next t) :
    t = s ∨ (s.status.busy = true ∧ s.seq.phase = p ∧ k = .next t) := by
  unfold whenEnabled at h
  split at h
  · rename_i hc; exact .inr ⟨hc.1, hc.2, h⟩
  · injection h with h; exact .inl h.symm

/-! ### The effects of `OUT` on the sequencer -/

/-- After `OUT` the run goes on, or it is finished: `seq` at `IDLE`, `BUSY` = 0, `DONE` = 1 (R212). -/
theorem advanceOut_cases (s : State) :
    (∃ q, afterOut s.ctrl.strat s.w s.h s.chans s.seq = some q ∧ advanceOut s = s.setSeq q) ∨
    (afterOut s.ctrl.strat s.w s.h s.chans s.seq = none ∧
      advanceOut s =
        (s.setSeq Seq.zero).setStatus { s.status with busy := false, done := true }) := by
  unfold advanceOut
  cases h : afterOut s.ctrl.strat s.w s.h s.chans s.seq with
  | some q => exact .inl ⟨q, rfl, rfl⟩
  | none => exact .inr ⟨rfl, rfl⟩

/-- The run ends exactly at the last channel, column and row. -/
theorem afterOut_eq_none {window : Bool} {w h c : Nat} {q : Seq} :
    afterOut window w h c q = none ↔
      ¬ q.ch.toNat + 1 < c ∧ ¬ q.i.toNat + 1 < w ∧ ¬ q.j.toNat + 1 < h := by
  unfold afterOut
  split
  · simp [*]
  · split
    · simp [*]
    · split <;> simp [*]

/-! ### The meanings that may stop: what each answers -/

theorem execPrd_cases (addr : BitVec 32) (s : State) :
    (addr.toNat < s.cfg.pmemBytes ∧
      execPrd addr s = .next (s.setReply (.byte (s.pmemByte addr.toNat)))) ∨
    (s.cfg.pmemBytes ≤ addr.toNat ∧ execPrd addr s = .refused .hostAddress) := by
  unfold execPrd
  rcases Nat.lt_or_ge addr.toNat s.cfg.pmemBytes with h | h
  · exact .inl ⟨h, by rw [State.memRead_of_lt h]⟩
  · exact .inr ⟨h, by rw [State.memRead_of_ge h]⟩

theorem execPwr_cases (addr : BitVec 32) (data : Byte) (s : State) :
    (addr.toNat < s.cfg.pmemBytes ∧
      execPwr addr data s = .next (s.setPmemByte addr.toNat data)) ∨
    (s.cfg.pmemBytes ≤ addr.toNat ∧ execPwr addr data s = .refused .hostAddress) := by
  unfold execPwr
  rcases Nat.lt_or_ge addr.toNat s.cfg.pmemBytes with h | h
  · exact .inl ⟨h, by rw [State.memWrite_of_lt data h]⟩
  · exact .inr ⟨h, by rw [State.memWrite_of_ge data h]⟩

/-- Everything `PAD` can answer with a next state. -/
theorem execPad_next {s t : State} (h : execPad s = .next t) :
    t = s ∨ (s.status.busy = true ∧ s.seq.phase = .pad ∧ s.tapAddr < s.cfg.pmemBytes ∧
      t = (s.setSample (s.pmemByte s.tapAddr)).setSeq (afterPad s.seq)) := by
  rcases whenEnabled_next h with h | ⟨hb, hp, h⟩
  · exact .inl h
  · split at h
    · rename_i v hv
      obtain ⟨hlt, rfl⟩ := State.memRead_eq_some.1 hv
      injection h with h
      exact .inr ⟨hb, hp, hlt, h.symm⟩
    · cases h

/-- Everything `FILL` can answer with a next state. -/
theorem execFill_next {s t : State} (h : execFill s = .next t) :
    t = s ∨ (s.status.busy = true ∧ s.seq.phase = .fill ∧ s.tapAddr < s.cfg.pmemBytes ∧
      winHas s.seq.a.toNat s.seq.b.toNat s.seq.ch.toNat = true ∧
      t = (s.setWinByte s.seq.a.toNat s.seq.b.toNat s.seq.ch.toNat (s.pmemByte s.tapAddr)).setSeq
        (afterFill s.chans s.k s.seq)) := by
  rcases whenEnabled_next h with h | ⟨hb, hp, h⟩
  · exact .inl h
  · split at h
    · cases h
    · rename_i v hv
      obtain ⟨hlt, rfl⟩ := State.memRead_eq_some.1 hv
      split at h
      · rename_i hw
        injection h with h
        exact .inr ⟨hb, hp, hlt, hw, h.symm⟩
      · cases h

/-- Everything `MAC` can answer with a next state. -/
theorem execMac_next {s t : State} (h : execMac s = .next t) :
    t = s ∨ (s.status.busy = true ∧ s.seq.phase = .mac ∧ s.tapWeight < Config.kmemDepth ∧
      t = (s.setAcc (macStep s.acc s.sample (s.kmemWord s.tapWeight))).setSeq (afterMac s.k s.seq)) := by
  rcases whenEnabled_next h with h | ⟨hb, hp, h⟩
  · exact .inl h
  · split at h
    · rename_i v hv
      obtain ⟨hlt, rfl⟩ := State.weight_eq_some.1 hv
      injection h with h
      exact .inr ⟨hb, hp, hlt, h.symm⟩
    · cases h

/-- Everything `RED` can answer with a next state. -/
theorem execRed_next {s t : State} (h : execRed s = .next t) :
    t = s ∨ (s.status.busy = true ∧ s.seq.phase = .red ∧ s.tapWeight < Config.kmemDepth ∧
      winHas s.seq.a.toNat s.seq.b.toNat s.seq.ch.toNat = true ∧
      t = (s.setAcc (macStep s.acc (s.winByte s.seq.a.toNat s.seq.b.toNat s.seq.ch.toNat)
        (s.kmemWord s.tapWeight))).setSeq (afterRed s.k s.seq)) := by
  rcases whenEnabled_next h with h | ⟨hb, hp, h⟩
  · exact .inl h
  · split at h
    · rename_i hw
      split at h
      · rename_i v hv
        obtain ⟨hlt, rfl⟩ := State.weight_eq_some.1 hv
        injection h with h
        exact .inr ⟨hb, hp, hlt, hw, h.symm⟩
      · cases h
    · cases h

/-- Everything `OUT` can answer with a next state. -/
theorem execOut_next {s t : State} (h : execOut s = .next t) :
    t = s ∨ (s.status.busy = true ∧ s.seq.phase = .out ∧ s.outAddr < s.cfg.pmemBytes ∧
      t = advanceOut ((((s.setStatus { s.status with nv := nvAfter s.acc s.status.nv }).setPmemByte
        s.outAddr (sat8 s.acc)).setAcc F32.zero))) := by
  rcases whenEnabled_next h with h | ⟨hb, hp, h⟩
  · exact .inl h
  · split at h
    · rename_i s' hv
      obtain ⟨hlt, rfl⟩ := State.memWrite_eq_some.1 hv
      injection h with h
      exact .inr ⟨hb, hp, hlt, h.symm⟩
    · cases h

/-- What an accepted `START` does: the error entry after `STATUS` is cleared, or the begin of a run. -/
theorem startEffect_cases (s : State) :
    (∃ e, startCheck s = some e ∧ startEffect s = raiseError e (clearStatus s)) ∨
    (startCheck s = none ∧ startEffect s = beginRun (clearStatus s)) := by
  unfold startEffect
  cases h : startCheck s with
  | some e => exact .inl ⟨e, rfl, rfl⟩
  | none => exact .inr ⟨rfl, rfl⟩

/-- What an accepted `WR CMD` does, by the word. -/
theorem commandEffect_cases (w : Word) (s : State) :
    (w = 0#32 ∧ commandEffect w s = s) ∨ (w = 1#32 ∧ commandEffect w s = startEffect s) ∨
    (w = 2#32 ∧ commandEffect w s = clearStatus s) ∨
    (w = 3#32 ∧ commandEffect w s = softReset s) ∨
    (3 < w.toNat ∧ commandEffect w s = raiseError .illegalCommand s) := by
  unfold commandEffect
  split
  · rename_i h; exact .inl ⟨BitVec.eq_of_toNat_eq h, rfl⟩
  · rename_i h; exact .inr (.inl ⟨BitVec.eq_of_toNat_eq h, rfl⟩)
  · rename_i h; exact .inr (.inr (.inl ⟨BitVec.eq_of_toNat_eq h, rfl⟩))
  · rename_i h; exact .inr (.inr (.inr (.inl ⟨BitVec.eq_of_toNat_eq h, rfl⟩)))
  · rename_i h0 h1 h2 h3
    refine .inr (.inr (.inr (.inr ⟨?_, rfl⟩)))
    have n0 : w.toNat ≠ 0 := h0
    have n1 : w.toNat ≠ 1 := h1
    have n2 : w.toNat ≠ 2 := h2
    have n3 : w.toNat ≠ 3 := h3
    omega

end Sys2Proof.Machine
end

