-- ==== Sys2Proof/Laws/PerInstr.lean ====
section
/-! SUPPORT. The family TableRow: the encoding of every instruction lies in its own row of
spec/opcode_table.json, by the row's format, match and mask. -/

namespace Sys2Proof.Laws

/-- A row of the opcode table: the format, and the opcode bits every word of the row has. -/
structure Row where
  format : String
  mask : Nat
  pattern : Nat
  deriving DecidableEq, Repr

/-- The row of each instruction, as the table writes its match and mask (a `UOP` row's encoding is its
whole 3-bit pattern). -/
def rowOf : Instr → Row
  | .nop => ⟨"CMDW", 0xFFFFFFFF, 0x00000000⟩
  | .start => ⟨"CMDW", 0xFFFFFFFF, 0x00000001⟩
  | .clear => ⟨"CMDW", 0xFFFFFFFF, 0x00000002⟩
  | .sreset => ⟨"CMDW", 0xFFFFFFFF, 0x00000003⟩
  | .rdId => ⟨"RX", 0x1F, 0x00⟩
  | .rdCap => ⟨"RX", 0x1F, 0x01⟩
  | .rdCtrl => ⟨"RX", 0x1F, 0x02⟩
  | .rdStatus => ⟨"RX", 0x1F, 0x03⟩
  | .rdCmd => ⟨"RX", 0x1F, 0x04⟩
  | .rdWidth => ⟨"RX", 0x1F, 0x05⟩
  | .rdHeight => ⟨"RX", 0x1F, 0x06⟩
  | .rdKsize => ⟨"RX", 0x1F, 0x07⟩
  | .rdSrcBase => ⟨"RX", 0x1F, 0x08⟩
  | .rdDstBase => ⟨"RX", 0x1F, 0x09⟩
  | .rdKaddr => ⟨"RX", 0x1F, 0x0A⟩
  | .rdKdata => ⟨"RX", 0x1F, 0x0B⟩
  | .wrCtrl _ => ⟨"RX", 0x1F, 0x12⟩
  | .wrCmd _ => ⟨"RX", 0x1F, 0x14⟩
  | .wrWidth _ => ⟨"RX", 0x1F, 0x15⟩
  | .wrHeight _ => ⟨"RX", 0x1F, 0x16⟩
  | .wrKsize _ => ⟨"RX", 0x1F, 0x17⟩
  | .wrSrcBase _ => ⟨"RX", 0x1F, 0x18⟩
  | .wrDstBase _ => ⟨"RX", 0x1F, 0x19⟩
  | .wrKaddr _ => ⟨"RX", 0x1F, 0x1A⟩
  | .wrKdata _ => ⟨"RX", 0x1F, 0x1B⟩
  | .idle => ⟨"UOP", 0x7, 0b000⟩
  | .pad => ⟨"UOP", 0x7, 0b001⟩
  | .mac => ⟨"UOP", 0x7, 0b010⟩
  | .out => ⟨"UOP", 0x7, 0b011⟩
  | .fill => ⟨"UOP", 0x7, 0b100⟩
  | .red => ⟨"UOP", 0x7, 0b101⟩
  | .prd _ => ⟨"PX", 0x1, 0x0⟩
  | .pwr _ _ => ⟨"PX", 0x1, 0x1⟩

/-- Whether a packet lies in a row. -/
def inRow (r : Row) : Packet → Prop
  | .rx header _ => r.format = "RX" ∧ header.toNat &&& r.mask = r.pattern
  | .px kind _ _ => r.format = "PX" ∧ kind.toNat &&& r.mask = r.pattern
  | .cmdw word => r.format = "CMDW" ∧ word.toNat &&& r.mask = r.pattern
  | .uop code => r.format = "UOP" ∧ code.toNat &&& r.mask = r.pattern

end Sys2Proof.Laws

namespace Sys2Proof.Laws.TableRow

/-- The instruction's encoding lies in its row. -/
def Statement (i : Instr) : Prop := inRow (rowOf i) (encode i)

theorem nop : Statement .nop := ⟨rfl, rfl⟩
theorem start : Statement .start := ⟨rfl, rfl⟩
theorem clear : Statement .clear := ⟨rfl, rfl⟩
theorem sreset : Statement .sreset := ⟨rfl, rfl⟩
theorem rdId : Statement .rdId := ⟨rfl, rfl⟩
theorem rdCap : Statement .rdCap := ⟨rfl, rfl⟩
theorem rdCtrl : Statement .rdCtrl := ⟨rfl, rfl⟩
theorem rdStatus : Statement .rdStatus := ⟨rfl, rfl⟩
theorem rdCmd : Statement .rdCmd := ⟨rfl, rfl⟩
theorem rdWidth : Statement .rdWidth := ⟨rfl, rfl⟩
theorem rdHeight : Statement .rdHeight := ⟨rfl, rfl⟩
theorem rdKsize : Statement .rdKsize := ⟨rfl, rfl⟩
theorem rdSrcBase : Statement .rdSrcBase := ⟨rfl, rfl⟩
theorem rdDstBase : Statement .rdDstBase := ⟨rfl, rfl⟩
theorem rdKaddr : Statement .rdKaddr := ⟨rfl, rfl⟩
theorem rdKdata : Statement .rdKdata := ⟨rfl, rfl⟩
theorem wrCtrl (data : Word) : Statement (.wrCtrl data) := ⟨rfl, by simp [rowOf]⟩
theorem wrCmd (data : Word) : Statement (.wrCmd data) := ⟨rfl, by simp [rowOf]⟩
theorem wrWidth (data : Word) : Statement (.wrWidth data) := ⟨rfl, by simp [rowOf]⟩
theorem wrHeight (data : Word) : Statement (.wrHeight data) := ⟨rfl, by simp [rowOf]⟩
theorem wrKsize (data : Word) : Statement (.wrKsize data) := ⟨rfl, by simp [rowOf]⟩
theorem wrSrcBase (data : Word) : Statement (.wrSrcBase data) := ⟨rfl, by simp [rowOf]⟩
theorem wrDstBase (data : Word) : Statement (.wrDstBase data) := ⟨rfl, by simp [rowOf]⟩
theorem wrKaddr (data : Word) : Statement (.wrKaddr data) := ⟨rfl, by simp [rowOf]⟩
theorem wrKdata (data : Word) : Statement (.wrKdata data) := ⟨rfl, by simp [rowOf]⟩
theorem idle : Statement .idle := ⟨rfl, rfl⟩
theorem pad : Statement .pad := ⟨rfl, rfl⟩
theorem mac : Statement .mac := ⟨rfl, rfl⟩
theorem out : Statement .out := ⟨rfl, rfl⟩
theorem fill : Statement .fill := ⟨rfl, rfl⟩
theorem red : Statement .red := ⟨rfl, rfl⟩
theorem prd (addr : BitVec 32) : Statement (.prd addr) := ⟨rfl, by simp [rowOf]⟩
theorem pwr (addr : BitVec 32) (data : Byte) : Statement (.pwr addr data) := ⟨rfl, by simp [rowOf]⟩

end Sys2Proof.Laws.TableRow
end

