-- ==== Sys2Proof/Laws/Step.lean ====
section
/-! SUPPORT. What a step does, by the next event; what the decoder gives for each packet of the engine. -/

namespace Sys2Proof.Machine

theorem step_nil {s : State} (h : s.events = []) : step s = runEvent .engine s := by
  simp [step, runNext, h]

theorem step_cons {s : State} {e : Event} {rest : List Event} (h : s.events = e :: rest) :
    step s = runEvent e (s.setEvents rest) := by simp [step, runNext, h]

/-- A step is the move of the first listed event, or the engine's turn when none is listed. -/
theorem step_cases (s : State) :
    (s.events = [] ∧ step s = runEvent .engine s) ∨
    (∃ e rest, s.events = e :: rest ∧ step s = runEvent e (s.setEvents rest)) := by
  cases h : s.events with
  | nil => exact .inl ⟨rfl, step_nil h⟩
  | cons e rest => exact .inr ⟨e, rest, rfl, step_cons h⟩

theorem runPacket_ok {p : Packet} {i : Instr} (s : State) (h : decode p = .ok i) :
    runPacket p s = exec i s := by simp [runPacket, h]

theorem runPacket_error {p : Packet} {r : Reject} (s : State) (h : decode p = .error r) :
    runPacket p s = runReject r s := by simp [runPacket, h]

@[simp] theorem runEvent_rst (s : State) : runEvent .rst s = .next (hardReset s) := rfl

@[simp] theorem runEvent_rx (header : BitVec 5) (wdata : Word) (s : State) :
    runEvent (.rx header wdata) s = runPacket (.rx header wdata) s := rfl

@[simp] theorem runEvent_px (kind : BitVec 1) (addr : BitVec 32) (data : Byte) (s : State) :
    runEvent (.px kind addr data) s = runPacket (.px kind addr data) s := rfl

@[simp] theorem runEvent_cmdw (word : Word) (s : State) :
    runEvent (.cmdw word) s = runPacket (.cmdw word) s := rfl

/-- The micro-operation a phase names. -/
def phaseInstr : Phase → Instr
  | .idle => .idle
  | .pad => .pad
  | .mac => .mac
  | .out => .out
  | .fill => .fill
  | .red => .red

theorem decodeUop_phaseCode (p : Phase) : decodeUop (phaseCode p) = .ok (phaseInstr p) := by
  cases p <;> rfl

theorem runEvent_engine_busy {s : State} (h : s.status.busy = true) :
    runEvent .engine s = exec (phaseInstr s.seq.phase) s := by
  have : runEvent .engine s = runPacket (enginePacket s) s := rfl
  rw [this]
  exact runPacket_ok s (by simp [enginePacket, h, decode, decodeUop_phaseCode])

theorem runEvent_engine_idle {s : State} (h : s.status.busy = false) :
    runEvent .engine s = .next s := by
  have : runEvent .engine s = runPacket (enginePacket s) s := rfl
  rw [this, runPacket_ok s (i := .idle) (by simp only [enginePacket, h, decode]; rfl)]
  rfl

end Sys2Proof.Machine
end

