-- ==== Sys2Proof/Tests/Slice0.lean ====
section
/-! SUPPORT. The model's own tests: words written out from spec/30_encoding.md, single steps with the
expected results of spec/95_test_vectors.md and of the rules' own examples, and one named witness for the
hypotheses of every statement. -/

namespace Sys2Proof.Tests

open Sys2Proof.Machine

/-! ## Helpers -/

/-- The next state of an outcome, if it is one. -/
def after (o : Host.Outcome State Fault Refusal) : Option State :=
  match o with
  | .next t => some t
  | .fault _ => none
  | .refused _ => none

/-- The `STATUS` word after an outcome. -/
def statusAfter (o : Host.Outcome State Fault Refusal) : Option Word :=
  (after o).map (fun t => statusWord t.status)

/-- What a read returned. -/
def replyAfter (o : Host.Outcome State Fault Refusal) : Option Reply := (after o).bind State.reply

/-- `seq` after an outcome. -/
def seqAfter (o : Host.Outcome State Fault Refusal) : Option Seq := (after o).map State.seq

/-- An idle machine with the operand registers of a row of spec/95_test_vectors.md 2.3. -/
def ready (k w h c src dst pmemBytes : Nat) : State :=
  { State.reset with
    cfg := ⟨pmemBytes, 0⟩
    ctrl := ⟨false, decide (c = 3), false⟩
    width := BitVec.ofNat 16 w
    height := BitVec.ofNat 16 h
    ksize := BitVec.ofNat 8 k
    srcBase := BitVec.ofNat 32 src
    dstBase := BitVec.ofNat 32 dst }

/-- `s` in a run, at position `q`. -/
def at_ (s : State) (window : Bool) (q : Seq) : State :=
  { s with ctrl := { s.ctrl with strat := window }, status := { s.status with busy := true }, seq := q }

/-- The operands of the trace V-Q1: 2 × 1 pixels, three channels, K = 1, weight 0.5. -/
def traceQ : State := { ready 1 2 1 3 0x100 0x200 (2 ^ 32) with kmem := [(0, 0x3F000000#32)] }

/-! ## WellFormed -/

theorem test_wellFormed_prd_outside :
    Instr.wellFormed ⟨0x10000, 0⟩ (.prd 0x10000#32) = false ∧
    Instr.wellFormed ⟨0x10000, 0⟩ (.prd 0xFFFF#32) = true := by decide

theorem test_wellFormed_pwr_outside :
    Instr.wellFormed ⟨0x10000, 0⟩ (.pwr 0x10000#32 0#8) = false ∧
    Instr.wellFormed ⟨0x10000, 0⟩ (.pwr 0xFFFF#32 0#8) = true := by decide

/-! ## Parameters (R6, R21) -/

/-- The record of R6 agrees with what the block says of itself (`CAP.KMAX`, R34), with KMAX² (R6), and
with the widths of the fields; the last register word lies at offset 0x3C. -/
theorem test_parameters :
    let p := (Config.mk 0x10000 0x4000).parameters
    (p.capValue.extractLsb' 0 8).toNat = p.kmax ∧ p.kmemDepth = p.kmax ^ 2 ∧
    p.maxDim = 2 ^ 16 - 1 ∧ p.pmemBytes = 0x10000 ∧ p.regBase = 0x4000 ∧
    ({ State.reset with cfg := ⟨0x10000, 0x4000⟩ } : State).regAddress 15#4 = 0x403C := by decide

/-! ## Decoding: every row's word, from R91 to R95 and R99 -/

theorem test_decode_cmdw :
    decode (.cmdw 0b00000000000000000000000000000000#32) = .ok .nop ∧
    decode (.cmdw 0b00000000000000000000000000000001#32) = .ok .start ∧
    decode (.cmdw 0b00000000000000000000000000000010#32) = .ok .clear ∧
    decode (.cmdw 0b00000000000000000000000000000011#32) = .ok .sreset := ⟨rfl, rfl, rfl, rfl⟩

theorem test_decode_reads :
    decode (.rx 0b00000#5 0#32) = .ok .rdId ∧ decode (.rx 0b00001#5 0#32) = .ok .rdCap ∧
    decode (.rx 0b00010#5 0#32) = .ok .rdCtrl ∧ decode (.rx 0b00011#5 0#32) = .ok .rdStatus ∧
    decode (.rx 0b00100#5 0#32) = .ok .rdCmd ∧ decode (.rx 0b00101#5 0#32) = .ok .rdWidth ∧
    decode (.rx 0b00110#5 0#32) = .ok .rdHeight ∧ decode (.rx 0b00111#5 0#32) = .ok .rdKsize ∧
    decode (.rx 0b01000#5 0#32) = .ok .rdSrcBase ∧ decode (.rx 0b01001#5 0#32) = .ok .rdDstBase ∧
    decode (.rx 0b01010#5 0#32) = .ok .rdKaddr ∧ decode (.rx 0b01011#5 0#32) = .ok .rdKdata :=
  ⟨rfl, rfl, rfl, rfl, rfl, rfl, rfl, rfl, rfl, rfl, rfl, rfl⟩

theorem test_decode_writes :
    decode (.rx 0b10010#5 0xFFFFFFFF#32) = .ok (.wrCtrl 0xFFFFFFFF#32) ∧
    decode (.rx 0b10100#5 0x00000101#32) = .ok (.wrCmd 0x00000101#32) ∧
    decode (.rx 0b10101#5 0x00010280#32) = .ok (.wrWidth 0x00010280#32) ∧
    decode (.rx 0b10110#5 0x80000001#32) = .ok (.wrHeight 0x80000001#32) ∧
    decode (.rx 0b10111#5 0x000001FF#32) = .ok (.wrKsize 0x000001FF#32) ∧
    decode (.rx 0b11000#5 0xFFFFFFFE#32) = .ok (.wrSrcBase 0xFFFFFFFE#32) ∧
    decode (.rx 0b11001#5 0x00001003#32) = .ok (.wrDstBase 0x00001003#32) ∧
    decode (.rx 0b11010#5 0x0000FFFF#32) = .ok (.wrKaddr 0x0000FFFF#32) ∧
    decode (.rx 0b11011#5 0x3F800000#32) = .ok (.wrKdata 0x3F800000#32) :=
  ⟨rfl, rfl, rfl, rfl, rfl, rfl, rfl, rfl, rfl⟩

theorem test_decode_uop :
    decode (.uop 0b000#3) = .ok .idle ∧ decode (.uop 0b001#3) = .ok .pad ∧
    decode (.uop 0b010#3) = .ok .mac ∧ decode (.uop 0b011#3) = .ok .out ∧
    decode (.uop 0b100#3) = .ok .fill ∧ decode (.uop 0b101#3) = .ok .red :=
  ⟨rfl, rfl, rfl, rfl, rfl, rfl⟩

theorem test_decode_px :
    decode (.px 0b0#1 0x00002000#32 0#8) = .ok (.prd 0x00002000#32) ∧
    decode (.px 0b1#1 0x80000001#32 0xC8#8) = .ok (.pwr 0x80000001#32 0xC8#8) := ⟨rfl, rfl⟩

/-- Every kind of packet without a row is rejected by its name (R23, R100, R113, R47). -/
theorem test_decode_rejects :
    decode (.rx 0b01100#5 0#32) = .error (.unmappedRead 12#4) ∧
    decode (.rx 0b01111#5 0#32) = .error (.unmappedRead 15#4) ∧
    decode (.rx 0b10000#5 0#32) = .error (.ignoredWrite 0#4) ∧
    decode (.rx 0b10001#5 0#32) = .error (.ignoredWrite 1#4) ∧
    decode (.rx 0b10011#5 0#32) = .error (.ignoredWrite 3#4) ∧
    decode (.rx 0b11100#5 0#32) = .error (.ignoredWrite 12#4) ∧
    decode (.rx 0b11111#5 0#32) = .error (.ignoredWrite 15#4) ∧
    decode (.cmdw 4#32) = .error (.illegalCommand 4#32) ∧
    decode (.cmdw 0x101#32) = .error (.illegalCommand 0x101#32) ∧
    decode (.uop 0b110#3) = .error (.unusedPhase 6#3) ∧
    decode (.uop 0b111#3) = .error (.unusedPhase 7#3) :=
  ⟨rfl, rfl, rfl, rfl, rfl, rfl, rfl, rfl, rfl, rfl, rfl⟩

/-- Words as the opcode table numbers them: an `RX` header, a whole `RX` transaction, a `CMDW` word, a
whole `PX` access, a `UOP` code. -/
theorem test_tableWord :
    decodeTableWord 8 0x1B = some (.wrKdata 0#32) ∧
    decodeTableWord 40 0x3F8000001B = some (.wrKdata 0x3F800000#32) ∧
    decodeTableWord 37 0x7F000001B = some (.wrKdata 0x3F800000#32) ∧
    decodeTableWord 32 3 = some .sreset ∧
    decodeTableWord 48 0xC80000004101 = some (.pwr 0x41#32 0xC8#8) ∧
    decodeTableWord 41 0x19000000083 = some (.pwr 0x41#32 0xC8#8) ∧
    decodeTableWord 3 0b100 = some .fill ∧
    decodeTableWord 8 0x0C = none := by decide

theorem test_fetchWord_runs_next :
    statusAfter (step (State.reset.withFetchWord 32 1)) = some 0x104#32 ∧
    replyAfter (step (State.reset.withFetchWord 8 1)) = some (.word 0x165#32) := by decide

/-! ## Register reads (V-R1 to V-R3, V-R12, V-R13, V-R22; the layouts of R112) -/

theorem test_rd_constants :
    replyAfter (exec .rdId State.reset) = some (.word 0x434F4E56#32) ∧
    replyAfter (exec .rdCap State.reset) = some (.word 0x00000165#32) ∧
    replyAfter (exec .rdStatus State.reset) = some (.word 0#32) ∧
    replyAfter (exec .rdCmd State.reset) = some (.word 0#32) ∧
    replyAfter (runPacket (.rx 0x0C#5 0#32) State.reset) = some (.word 0#32) := by decide

/-- The state P4 ends in, with `IE` and `STRAT` set. -/
theorem test_rd_operands :
    let s := { ready 4 0 2 1 0xFFFFFFFE 0x1003 (2 ^ 32) with
      ctrl := ⟨true, false, true⟩, status := ⟨false, true, true, true, true, 6#4⟩ }
    replyAfter (exec .rdCtrl s) = some (.word 5#32) ∧
    replyAfter (exec .rdStatus s) = some (.word 0x61E#32) ∧
    replyAfter (exec .rdWidth s) = some (.word 0#32) ∧
    replyAfter (exec .rdHeight s) = some (.word 2#32) ∧
    replyAfter (exec .rdKsize s) = some (.word 4#32) ∧
    replyAfter (exec .rdSrcBase s) = some (.word 0xFFFFFFFE#32) ∧
    replyAfter (exec .rdDstBase s) = some (.word 0x1003#32) := by decide

theorem test_rd_kaddr_kdata :
    let s := { State.reset with kaddr := 10200#14, kmem := [(10200, 0xBF800000#32)] }
    replyAfter (exec .rdKaddr s) = some (.word 0x27D8#32) ∧
    replyAfter (exec .rdKdata s) = some (.word 0xBF800000#32) ∧
    replyAfter (exec .rdKdata { s with kaddr := 10201#14 }) = some (.word 0#32) ∧
    replyAfter (exec .rdKdata { s with kaddr := 16383#14 }) = some (.word 0#32) := by decide

/-! ## Register writes (V-R4 to V-R11, V-R14 to V-R21) -/

theorem test_wr_ctrl_drops_reserved :
    (after (exec (.wrCtrl 0xFFFFFFFF#32) State.reset)).map (fun t => (ctrlWord t.ctrl, t.irq)) =
      some (7#32, false) := by decide

theorem test_wr_operands :
    (after (exec (.wrWidth 0x00010280#32) State.reset)).map State.width = some 640#16 ∧
    (after (exec (.wrHeight 0xFFFFFFFF#32) State.reset)).map State.height = some 65535#16 ∧
    (after (exec (.wrKsize 0x1FF#32) State.reset)).map State.ksize = some 255#8 ∧
    (after (exec (.wrSrcBase 0xFFFFFFFF#32) State.reset)).map State.srcBase = some 0xFFFFFFFF#32 ∧
    (after (exec (.wrDstBase 0x2000#32) State.reset)).map State.dstBase = some 0x2000#32 ∧
    (after (exec (.wrKaddr 0xFFFF#32) State.reset)).map State.kaddr = some 16383#14 := by decide

/-- `KADDR` steps and wraps, in and out of the range of `KMEM`. -/
theorem test_wr_kdata_index :
    (after (exec (.wrKdata 0x3F800000#32) { State.reset with kaddr := 16383#14 })).map State.kaddr =
      some 0#14 ∧
    (after (exec (.wrKdata 0xBF800000#32) { State.reset with kaddr := 10200#14 })).map State.kaddr =
      some 10201#14 ∧
    (after (exec (.wrKdata 0x12345678#32) { State.reset with kaddr := 10201#14 })).map State.kmem =
      some [] := by decide

/-- V-R17, V-R20: the entry written reads back. -/
theorem test_wr_kdata_stores :
    (kdataEffect 0x40A00000#32 State.reset).kmemWord 0 = 0x40A00000#32 ∧
    (kdataEffect 0xBF800000#32 { State.reset with kaddr := 10200#14 }).kmemWord 10200 =
      0xBF800000#32 :=
  ⟨Cells.read_write_same _ _ _ _, Cells.read_write_same _ _ _ _⟩

/-- V-R4, V-R5, V-R14: writes of read-only and unmapped words, idle and busy. -/
theorem test_wr_ignored :
    runPacket (.rx 0x10#5 0xFFFFFFFF#32) State.reset = .next State.reset ∧
    runPacket (.rx 0x13#5 0xFFFFFFFF#32) State.reset = .next State.reset ∧
    runPacket (.rx 0x1F#5 0x1234#32) (at_ traceQ false (firstSeq false)) =
      .next (at_ traceQ false (firstSeq false)) := ⟨rfl, rfl, rfl⟩

/-- V-C5 to V-C7: every kind of write is dropped while busy. -/
theorem test_wr_busy :
    let s := at_ traceQ false (firstSeq false)
    statusAfter (exec (.wrWidth 5#32) s) = some 0x11#32 ∧
    (after (exec (.wrWidth 5#32) s)).map State.width = some 2#16 ∧
    statusAfter (exec (.wrCmd 0xFF#32) s) = some 0x11#32 ∧
    statusAfter (runPacket (.cmdw 0xFF#32) s) = some 0x11#32 ∧
    statusAfter (exec .sreset s) = some 0x11#32 := by decide

/-! ## Commands (R114, R116 to R118; V-C1 to V-C13) -/

/-- `STATUS` = 2 : an idle machine whose last run is done, with the interrupt enabled. -/
def doneState : State :=
  { traceQ with ctrl := ⟨true, true, false⟩, status := { Status.zero with done := true } }

theorem test_nop : statusAfter (exec .nop doneState) = some 2#32 := by decide

theorem test_clear :
    statusAfter (exec .clear { doneState with status := ⟨false, true, false, true, true, 0#4⟩ }) =
      some 0#32 ∧
    (after (exec .clear doneState)).map State.irq = some false := by decide

theorem test_sreset :
    (after (exec .sreset { doneState with width := 640#16 })).map
      (fun t => (t.width, ctrlWord t.ctrl, t.irq, t.kmemWord 0)) =
      some (0#16, 0#32, false, 0x3F000000#32) := by decide

theorem test_illegal_command :
    statusAfter (exec (.wrCmd 7#32) doneState) = some 0x606#32 ∧
    statusAfter (exec (.wrCmd 0x101#32) State.reset) = some 0x604#32 ∧
    statusAfter (runPacket (.cmdw 4#32) State.reset) = some 0x604#32 ∧
    (after (exec (.wrCmd 0x101#32) { State.reset with ctrl := ⟨true, false, false⟩ })).map State.irq =
      some true := by decide

/-- V-E1 to V-E22. -/
theorem test_start_checks :
    [(ready 0 4 4 1 0x1000 0x2000 (2 ^ 32), 0x104#32), (ready 2 4 4 1 0x1000 0x2000 (2 ^ 32), 0x104#32),
     (ready 103 200 200 1 0x10000 0x80000 (2 ^ 32), 0x104#32),
     (ready 4 0 4 1 0x1000 0x2000 (2 ^ 32), 0x104#32), (ready 3 3 3 1 0x1000 0x2000 (2 ^ 32), 1#32),
     (ready 3 2 5 1 0x1000 0x2000 (2 ^ 32), 0x204#32),
     (ready 101 101 101 1 0x10000 0x80000 (2 ^ 32), 1#32),
     (ready 101 100 200 1 0x10000 0x80000 (2 ^ 32), 0x204#32),
     (ready 3 0 5 1 0x1000 0x2000 (2 ^ 32), 0x204#32), (ready 1 5 0 3 0x1000 0x2000 (2 ^ 32), 0x204#32),
     (ready 1 1 1 1 0x1000 0x2000 (2 ^ 32), 1#32), (ready 1 4 4 1 0xFFFFFFF0 0x2000 (2 ^ 32), 1#32),
     (ready 1 4 4 1 0xFFFFFFF1 0x2000 (2 ^ 32), 0x404#32),
     (ready 1 2 2 3 0x1000 0xFFF8 0x10000, 0x404#32), (ready 1 2 2 3 0x1000 0xFFF4 0x10000, 1#32),
     (ready 1 65535 65535 3 0 0 (2 ^ 32), 0x404#32), (ready 1 2 2 3 0x1000 0x1008 (2 ^ 32), 0x504#32),
     (ready 1 2 2 3 0x1000 0x100C (2 ^ 32), 1#32), (ready 1 2 2 3 0x1000 0xFF5 (2 ^ 32), 0x504#32),
     (ready 1 2 2 3 0x1000 0xFF4 (2 ^ 32), 1#32), (ready 1 2 2 3 0x1000 0x1000 (2 ^ 32), 0x504#32),
     (ready 1 2 2 3 0xFFFFFFF8 0xFFFFFFFA (2 ^ 32), 0x404#32)].all
      (fun v => decide (statusAfter (exec .start v.1) = some v.2)) = true := by decide

/-- V-C4 and step 7 of R115: `STATUS` is cleared, the accumulator too, and `seq` fits the strategy. -/
theorem test_start_begins :
    statusAfter (exec .start doneState) = some 1#32 ∧
    (after (exec .start { doneState with acc := .nan })).map State.acc = some F32.zero ∧
    seqAfter (exec .start doneState) = some ⟨.pad, 0#16, 0#16, 0#2, 0#7, 0#7⟩ ∧
    seqAfter (exec .start { doneState with ctrl := ⟨true, true, true⟩ }) =
      some ⟨.fill, 0#16, 0#16, 0#2, 0#7, 0#7⟩ := by decide

/-! ## Host pixel accesses (R63) -/

theorem test_prd :
    replyAfter (exec (.prd 0x80#32) { State.reset with pmem := [(0x80, 0xFF#8)] }) =
      some (.byte 0xFF#8) ∧
    after (exec (.prd 0x10000#32) (ready 1 2 2 3 0 0x100 0x10000)) = none := by decide

theorem test_pwr :
    (State.reset.setPmemByte 0x41 0xC8#8).pmemByte 0x41 = 0xC8#8 ∧
    exec (.pwr 0x41#32 0xC8#8) State.reset = .next (State.reset.setPmemByte 0x41 0xC8#8) ∧
    exec (.pwr 0x10000#32 0xC8#8) (ready 1 2 2 3 0 0x100 0x10000) = .refused .hostAddress :=
  ⟨Cells.read_write_same _ _ _ _, rfl, rfl⟩

/-! ## Micro-operations (V-P, V-Q1, V-Q2, V-M35) -/

/-- V-P1 to V-P12. -/
theorem test_padded_addresses :
    (ready 3 4 3 1 0x100 0x200 (2 ^ 32)).paddedAddr 0 0 0 0 2 = 0x104 ∧
    (ready 3 4 3 1 0x100 0x200 (2 ^ 32)).paddedAddr 0 0 0 0 0 = 0x100 ∧
    (ready 3 4 3 1 0x100 0x200 (2 ^ 32)).paddedAddr 3 2 0 2 2 = 0x10B ∧
    (ready 3 4 3 1 0x100 0x200 (2 ^ 32)).paddedAddr 1 1 0 1 1 = 0x105 ∧
    (ready 3 4 3 1 0x100 0x200 (2 ^ 32)).paddedAddr 3 0 0 2 0 = 0x103 ∧
    (ready 1 2 2 3 0x1000 0x200 (2 ^ 32)).paddedAddr 1 1 2 0 0 = 0x100B ∧
    (ready 5 5 5 3 0x1000 0x200 (2 ^ 32)).paddedAddr 0 4 1 0 4 = 0x103D ∧
    (ready 5 5 5 3 0x1000 0x200 (2 ^ 32)).paddedAddr 2 2 2 4 0 = 0x100E ∧
    (ready 101 101 101 1 0x10000 0x200 (2 ^ 32)).paddedAddr 0 0 0 0 0 = 0x10000 ∧
    (ready 101 101 101 1 0x10000 0x200 (2 ^ 32)).paddedAddr 100 100 0 100 100 = 0x127D8 ∧
    (ready 101 101 101 1 0x10000 0x200 (2 ^ 32)).paddedAddr 0 100 0 100 0 = 0x113EC ∧
    (ready 101 65535 101 1 0 0x200 (2 ^ 32)).paddedAddr 65534 0 0 100 50 = 0xFFFE := by decide

/-- The example of R146 (V-P1): the sample of the tap, and the phase `MAC`. -/
theorem test_pad :
    (after (exec .pad (at_ { ready 3 4 3 1 0x100 0x200 (2 ^ 32) with pmem := [(0x104, 77#8)] } false
      ⟨.pad, 0#16, 0#16, 0#2, 0#7, 2#7⟩))).map (fun t => (t.sample, t.seq)) =
      some (77#8, ⟨.mac, 0#16, 0#16, 0#2, 0#7, 2#7⟩) := by decide

/-- V-M35: 1000 − 10 in the accumulator, and the last tap of K = 1 goes to `OUT`. -/
theorem test_mac :
    (after (exec .mac { at_ traceQ false ⟨.mac, 0#16, 1#16, 2#2, 0#7, 0#7⟩ with
      acc := F32.ofBits 0x447A0000#32, sample := 10#8, kmem := [(0, 0xBF800000#32)] })).map
      (fun t => (t.acc, t.seq)) =
      some (F32.ofBits 0x44778000#32, ⟨.out, 0#16, 1#16, 2#2, 0#7, 0#7⟩) := by decide +kernel

/-- The weight of tap (a, b) is entry a·K + b (R48), with K = 3, a = 1, b = 2. -/
theorem test_mac_weight_index :
    (after (exec .mac { at_ (ready 3 3 3 1 0x100 0x200 (2 ^ 32)) false
      ⟨.mac, 0#16, 0#16, 0#2, 1#7, 2#7⟩ with
      sample := 3#8, kmem := [(5, 0x3DE38E39#32), (7, 0x40A00000#32)] })).map
      (fun t => (t.acc, t.seq)) =
      some (F32.ofBits 0x3EAAAAAB#32, ⟨.pad, 0#16, 0#16, 0#2, 2#7, 0#7⟩) := by decide +kernel

/-- Steps 1 and 3 of V-Q2: `CH` counts first, and after the last entry the phase is `RED`. -/
theorem test_fill :
    seqAfter (exec .fill (at_ traceQ true ⟨.fill, 0#16, 0#16, 0#2, 0#7, 0#7⟩)) =
      some ⟨.fill, 0#16, 0#16, 1#2, 0#7, 0#7⟩ ∧
    seqAfter (exec .fill (at_ traceQ true ⟨.fill, 0#16, 0#16, 2#2, 0#7, 0#7⟩)) =
      some ⟨.red, 0#16, 0#16, 0#2, 0#7, 0#7⟩ := by decide

/-- Step 3 of V-Q2: `WIN[0][0][2] <- 31`. -/
theorem test_fill_stores :
    (State.reset.setWinByte 0 0 2 31#8).winByte 0 0 2 = 31#8 ∧
    winIndex 0 0 2 = 2 ∧ winIndex 100 100 2 = 30602 :=
  ⟨Cells.read_write_same _ _ _ _, rfl, rfl⟩

/-- Steps 4 and 6 of V-Q2. -/
theorem test_red :
    (after (exec .red { at_ traceQ true ⟨.red, 0#16, 0#16, 0#2, 0#7, 0#7⟩ with
      win := [(0, 10#8), (1, 20#8)] })).map (fun t => (t.acc, t.seq)) =
      some (F32.ofBits 0x40A00000#32, ⟨.out, 0#16, 0#16, 0#2, 0#7, 0#7⟩) ∧
    (after (exec .red { at_ traceQ true ⟨.red, 0#16, 0#16, 1#2, 0#7, 0#7⟩ with
      win := [(0, 10#8), (1, 20#8)] })).map State.acc = some (F32.ofBits 0x41200000#32) := by
  decide +kernel

/-- Steps 3, 9 and 18 of V-Q1, and a NaN: the next channel, the next column, the end. -/
theorem test_out :
    seqAfter (exec .out (at_ traceQ false ⟨.out, 0#16, 0#16, 0#2, 0#7, 0#7⟩)) =
      some ⟨.pad, 0#16, 0#16, 1#2, 0#7, 0#7⟩ ∧
    seqAfter (exec .out (at_ traceQ false ⟨.out, 0#16, 0#16, 2#2, 0#7, 0#7⟩)) =
      some ⟨.pad, 0#16, 1#16, 0#2, 0#7, 0#7⟩ ∧
    (after (exec .out (at_ traceQ false ⟨.out, 0#16, 1#16, 2#2, 0#7, 0#7⟩))).map
      (fun t => (t.seq, statusWord t.status)) = some (⟨.idle, 0#16, 0#16, 0#2, 0#7, 0#7⟩, 2#32) ∧
    (after (exec .out { at_ traceQ false ⟨.out, 0#16, 0#16, 0#2, 0#7, 0#7⟩ with acc := .nan })).map
      (fun t => (t.acc, statusWord t.status)) = some (F32.zero, 9#32) := by decide

/-- Step 16 of V-Q1 stores at 0x205 the sample 2 of 1.5; steps 5 and 9 of V-Q2. -/
theorem test_out_address_and_window :
    (at_ traceQ false ⟨.out, 0#16, 1#16, 2#2, 0#7, 0#7⟩).outAddr = 0x205 ∧
    sat8 (F32.ofBits 0x3FC00000#32) = 2#8 ∧
    seqAfter (exec .out (at_ traceQ true ⟨.out, 0#16, 0#16, 0#2, 0#7, 0#7⟩)) =
      some ⟨.red, 0#16, 0#16, 1#2, 0#7, 0#7⟩ ∧
    seqAfter (exec .out (at_ traceQ true ⟨.out, 0#16, 0#16, 2#2, 0#7, 0#7⟩)) =
      some ⟨.fill, 0#16, 1#16, 0#2, 0#7, 0#7⟩ := by decide +kernel

theorem test_idle : exec .idle traceQ = .next traceQ ∧ step State.reset = .next State.reset := ⟨rfl, rfl⟩

/-- `rst` during a run (R276): idle, not done, registers at 0, `PMEM` kept. -/
theorem test_rst :
    (after (step { at_ traceQ false (firstSeq false) with
      pmem := [(0x200, 5#8)], events := [.rst] })).map
      (fun t => (statusWord t.status, t.width, t.seq, t.pmemByte 0x200, t.epoch)) =
      some (0#32, 0#16, Seq.zero, 5#8, 1) := by decide

/-! ## Arithmetic (V-M, V-S, V-B5) -/

/-- V-M1 to V-M12. -/
theorem test_fmul32 :
    [(3, 0x3DE38E39, 0x3EAAAAAB), (255, 0x3DE38E39, 0x41E2AAAB), (200, 0x40A00000, 0x447A0000),
     (5, 0xBF800000, 0xC0A00000), (0, 0xBF800000, 0x80000000), (0, 0x3F800000, 0x00000000),
     (1, 0x00000001, 0x00000001), (255, 0x00000001, 0x000000FF), (255, 0x7F7FFFFF, 0x7F800000),
     (2, 0xFF800000, 0xFF800000), (0, 0x7F800000, 0x7FC00000), (7, 0x7FC00000, 0x7FC00000)].all
      (fun v : Nat × Nat × Nat => decide (fmul32 (u8ToF32 (BitVec.ofNat 8 v.1))
        (F32.ofBits (BitVec.ofNat 32 v.2.1)) = F32.ofBits (BitVec.ofNat 32 v.2.2))) = true := by
  decide +kernel

/-- V-M13 to V-M26. -/
theorem test_fadd32 :
    [(0x3F800000, 0x33800000, 0x3F800000), (0x3F800000, 0x33800001, 0x3F800001),
     (0x3F800001, 0x33800000, 0x3F800002), (0x4B800000, 0x3F800000, 0x4B800000),
     (0x4B800000, 0x40400000, 0x4B800002), (0x40A00000, 0xC0A00000, 0x00000000),
     (0x00000000, 0x80000000, 0x00000000), (0x80000000, 0x80000000, 0x80000000),
     (0x3F000000, 0x00000001, 0x3F000000), (0x007FFFFF, 0x00000001, 0x00800000),
     (0x7F7FFFFF, 0x72FFFFFF, 0x7F7FFFFF), (0x7F7FFFFF, 0x73000000, 0x7F800000),
     (0x7F800000, 0xFF800000, 0x7FC00000), (0x7F800000, 0x3F800000, 0x7F800000)].all
      (fun v : Nat × Nat × Nat => decide (fadd32 (F32.ofBits (BitVec.ofNat 32 v.1))
        (F32.ofBits (BitVec.ofNat 32 v.2.1)) = F32.ofBits (BitVec.ofNat 32 v.2.2))) = true := by
  decide +kernel

/-- V-M27 to V-M34. -/
theorem test_macStep :
    [(0x00000000, 3, 0x3DE38E39, 0x3EAAAAAB), (0x40000000, 3, 0x3DE38E39, 0x40155555),
     (0x402AAAAA, 3, 0x3DE38E39, 0x403FFFFF), (0x40A00000, 5, 0xBF800000, 0x00000000),
     (0x00000000, 0, 0xBF800000, 0x00000000), (0x42C80000, 0, 0x7F7FFFFF, 0x42C80000),
     (0x42C80000, 0, 0x7F800000, 0x7FC00000), (0x7F800000, 1, 0xFF800000, 0x7FC00000)].all
      (fun v : Nat × Nat × Nat × Nat => decide (macStep (F32.ofBits (BitVec.ofNat 32 v.1))
        (BitVec.ofNat 8 v.2.1) (BitVec.ofNat 32 v.2.2.1) =
          F32.ofBits (BitVec.ofNat 32 v.2.2.2))) = true := by decide +kernel

/-- V-S1 to V-S25. -/
theorem test_sat8 :
    [(0x00000000, 0), (0x80000000, 0), (0x3EFFFFFF, 0), (0x3F000000, 0), (0x3F000001, 1),
     (0x3FC00000, 2), (0x40200000, 2), (0x403FFFFF, 3), (0x42C73333, 100), (0x42FD0000, 126),
     (0x42FF0000, 128), (0x437E8000, 254), (0x437E8001, 255), (0x437F0000, 255), (0x437F8000, 255),
     (0x43960000, 255), (0x7F7FFFFF, 255), (0x7F800000, 255), (0xBF000000, 0), (0xBF19999A, 0),
     (0xC1400000, 0), (0xFF800000, 0), (0x7FC00000, 0), (0x7F800001, 0), (0xFFC00000, 0)].all
      (fun v : Nat × Nat => decide (sat8 (F32.ofBits (BitVec.ofNat 32 v.1)) = BitVec.ofNat 8 v.2)) =
      true := by decide +kernel

/-- The last column of V-S: only a NaN sets `NV`. -/
theorem test_nv :
    nvAfter (F32.ofBits 0x7F800001#32) false = true ∧ nvAfter (F32.ofBits 0x7F800000#32) false = false ∧
    nvAfter (F32.ofBits 0x3F800000#32) true = true := by decide +kernel

/-- V-B5: nine terms round32(3/9) give 0x403FFFFF, which rounds to 3. -/
theorem test_blur_sum :
    (List.replicate 9 0x3DE38E39#32).foldl (fun acc v => macStep acc 3#8 v) F32.zero =
      F32.ofBits 0x403FFFFF#32 := by decide +kernel

/-- V-Q3: the order of the taps. -/
theorem test_taps :
    taps 3 = [(0, 0), (0, 1), (0, 2), (1, 0), (1, 1), (1, 2), (2, 0), (2, 1), (2, 2)] := by decide

/-- V-Q4, last row. -/
theorem test_runSteps : (ready 5 5 5 3 0x100 0x200 (2 ^ 32)).runSteps = 3825 := by decide

/-! ## Witnesses: states and operands that meet the hypotheses of the statements -/

/-- A run of a 3 × 3 image with K = 3, about to begin. -/
def runState (window : Bool) : State :=
  at_ (ready 3 3 3 1 0x100 0x200 (2 ^ 32)) window (firstSeq window)

/-- A run of one sample, before its last micro-operation. -/
def lastOut : State := at_ (ready 1 1 1 1 0x100 0x200 (2 ^ 32)) false ⟨.out, 0#16, 0#16, 0#2, 0#7, 0#7⟩

theorem runState_inv (window : Bool) : (runState window).Inv := by
  cases window <;> exact
    { cfgRange := by decide
      busyClean := by decide
      errIff := by decide
      errCodes := by decide
      idleIff := by decide
      idleSeq := by decide
      run := fun _ =>
        { checks := by decide, jRange := by decide, iRange := by decide, chRange := by decide
          aRange := by decide, bRange := by decide, outTap := by decide, direct := by decide
          window := by decide }
      accFresh := fun _ => rfl
      accBinary32 := by decide
      mem := ⟨rfl, rfl, rfl, rfl, rfl, rfl⟩ }

theorem lastOut_inv : lastOut.Inv :=
  { cfgRange := by decide
    busyClean := by decide
    errIff := by decide
    errCodes := by decide
    idleIff := by decide
    idleSeq := by decide
    run := fun _ =>
      { checks := by decide, jRange := by decide, iRange := by decide, chRange := by decide
        aRange := by decide, bRange := by decide, outTap := by decide, direct := by decide
        window := by decide }
    accFresh := fun _ => rfl
    accBinary32 := by decide
    mem := ⟨rfl, rfl, rfl, rfl, rfl, rfl⟩ }

theorem ready_inv : (ready 3 3 3 1 0x100 0x200 (2 ^ 32)).Inv :=
  { cfgRange := by decide
    busyClean := by decide
    errIff := by decide
    errCodes := by decide
    idleIff := by decide
    idleSeq := by decide
    run := fun h => by cases h
    accFresh := fun _ => rfl
    accBinary32 := by decide
    mem := ⟨rfl, rfl, rfl, rfl, rfl, rfl⟩ }

theorem setEvents_inv {s : State} (h : s.Inv) (es : List Event) : (s.setEvents es).Inv :=
  { cfgRange := h.cfgRange
    busyClean := h.busyClean
    errIff := h.errIff
    errCodes := h.errCodes
    idleIff := h.idleIff
    idleSeq := h.idleSeq
    run := fun hb =>
      have r := h.run hb
      ⟨r.checks, r.jRange, r.iRange, r.chRange, r.aRange, r.bRange, r.outTap, r.direct, r.window⟩
    accFresh := h.accFresh
    accBinary32 := h.accBinary32
    mem := ⟨h.mem.pmemForm, h.mem.pmemBelow, h.mem.kmemForm, h.mem.kmemBelow, h.mem.winForm,
      h.mem.winBelow⟩ }

theorem setKmemWord_inv {s : State} (h : s.Inv) {n : Nat} (v : Word) (hn : n < Config.kmemDepth) :
    (s.setKmemWord n v).Inv :=
  { cfgRange := h.cfgRange
    busyClean := h.busyClean
    errIff := h.errIff
    errCodes := h.errCodes
    idleIff := h.idleIff
    idleSeq := h.idleSeq
    run := fun hb =>
      have r := h.run hb
      ⟨r.checks, r.jRange, r.iRange, r.chRange, r.aRange, r.bRange, r.outTap, r.direct, r.window⟩
    accFresh := h.accFresh
    accBinary32 := h.accBinary32
    mem := MemInv.setKmemWord h.mem v hn }

theorem runState_begins (window : Bool) : (runState window).runBegins :=
  ⟨runState_inv window, rfl, rfl, rfl⟩

/-! ### Host moves -/

theorem witness_RstPutsTheBlockAtItsResetValues :
    ∃ (s : State) (rest : List Event), s.events = .rst :: rest ∧ s.status.busy = true :=
  ⟨(runState true).setEvents [.rst, .cmdw 1#32], [.cmdw 1#32], rfl, rfl⟩

theorem witness_RegisterReadsReturnTheirValues :
    12 ≤ (12#4).toNat ∧ 12 ≤ (15#4).toNat := by decide

/-- Legal and illegal words, and the three ranges of `KADDR`. -/
theorem witness_AcceptedWritesHaveTheirEffect :
    State.reset.status.busy = false ∧ decode (.cmdw 3#32) = .ok .sreset ∧ 3 < (4#32).toNat ∧
    (∀ k ∈ [10200#14, 10201#14, 16383#14],
      ({ State.reset with kaddr := k } : State).status.busy = false) :=
  ⟨rfl, rfl, by decide, fun _ _ => rfl⟩

theorem witness_WritesWhileBusyOnlySetWign : (runState false).status.busy = true := rfl

theorem witness_WritesToReadOnlyWordsAreIgnored : (3#4).toNat ∈ [0, 1, 3, 12, 13, 14, 15] := by decide

theorem witness_KernelLoadFillsTheEntriesInOrder :
    ∃ (s : State) (ws : List Word) (rest : List Event), s.status.busy = false ∧ ws.length ≤ 10201 ∧
      ws.length = 2 ∧
      s.events = .rx 0b11010#5 0#32 :: (ws.map (fun v => Event.rx 0b11011#5 v) ++ rest) :=
  ⟨State.reset.setEvents [.rx 0x1A#5 0#32, .rx 0x1B#5 5#32, .rx 0x1B#5 6#32, .engine],
    [5#32, 6#32], [.engine], rfl, by decide, rfl, rfl⟩

theorem witness_NopClearAndSresetHaveTheirEffect :
    doneState.status.busy = false ∧ (runState false).status.busy = true := ⟨rfl, rfl⟩

/-- The rows V-E1 to V-E22 of `test_start_checks` reach every branch; each is idle. -/
theorem witness_StartChecksInOrderThenBeginsTheRun :
    (ready 3 3 3 1 0x1000 0x2000 (2 ^ 32)).status.busy = false ∧
    (ready 1 2 2 3 0x1000 0xFFF4 0x10000).status.busy = false := ⟨rfl, rfl⟩

theorem witness_IllegalCommandTakesTheErrorEntry :
    doneState.status.busy = false ∧ 3 < (4#32).toNat ∧ 3 < (0xFFFFFFFF#32).toNat := by decide

theorem witness_HostPixelAccessesReachPmemOnly :
    (0xFFFF#32).toNat < (ready 1 2 2 3 0 0x100 0x10000).cfg.pmemBytes ∧
    (ready 1 2 2 3 0 0x100 0x10000).cfg.pmemBytes ≤ (0x10000#32).toNat := by decide

/-! ### The engine -/

/-- Left of and below the image, and on its last column and first row. -/
theorem witness_TapAddressIsTheClampedSample :
    (∃ (s : State) (tx ty : Int) (x y : Nat), 0 < s.w ∧ 0 < s.h ∧
      tx = (s.seq.i.toNat : Int) + s.seq.a.toNat - ((s.ksize.toNat - 1) / 2 : Nat) ∧
      ty = (s.seq.j.toNat : Int) + s.seq.b.toNat - ((s.ksize.toNat - 1) / 2 : Nat) ∧
      tx < 0 ∧ x = 0 ∧ s.h - 1 < ty ∧ y = s.h - 1) ∧
    (∃ (s : State) (tx ty : Int) (x y : Nat), 0 < s.w ∧ 0 < s.h ∧
      tx = (s.seq.i.toNat : Int) + s.seq.a.toNat - ((s.ksize.toNat - 1) / 2 : Nat) ∧
      ty = (s.seq.j.toNat : Int) + s.seq.b.toNat - ((s.ksize.toNat - 1) / 2 : Nat) ∧
      tx = s.w - 1 ∧ (x : Int) = tx ∧ ty = 0 ∧ (y : Int) = ty) :=
  ⟨⟨at_ (ready 3 4 3 1 0x100 0x200 (2 ^ 32)) false ⟨.pad, 2#16, 0#16, 0#2, 0#7, 2#7⟩, -1, 3, 0, 2,
      by decide⟩,
   ⟨at_ (ready 3 4 3 1 0x100 0x200 (2 ^ 32)) false ⟨.pad, 0#16, 2#16, 0#2, 2#7, 1#7⟩, 3, 0, 3, 0,
      by decide⟩⟩

theorem witness_PaddedSampleReplicatesEdges :
    ((runState false).ksize.toNat % 2 = 1 ∧ 1 < (runState false).w ∧ 1 < (runState false).h ∧
      2 < (runState false).k ∧ (runState false).radius ≤ 1 ∧
      1 + (runState false).radius < (runState false).w ∧
      1 + (runState false).radius < (runState false).h) ∧
    (∃ (s : State) (v : Byte), s.ksize.toNat % 2 = 1 ∧ 0 < s.w ∧ 0 < s.h ∧
      ∀ x y, x < s.w → y < s.h → s.srcSample x y 0 = v) := by
  refine ⟨by decide, lastOut, lastOut.srcSample 0 0 0, by decide, by decide, by decide, ?_⟩
  intro x y hx hy
  have hx0 : x = 0 := Nat.lt_one_iff.1 hx
  have hy0 : y = 0 := Nat.lt_one_iff.1 hy
  rw [hx0, hy0]

theorem witness_PadLatchesTheTapSample :
    (runState false).status.busy = true ∧ (runState false).seq.phase = .pad ∧
    (runState false).tapAddr < (runState false).cfg.pmemBytes := by decide

/-- The last entry of the largest window. -/
theorem witness_FillStoresTheTapSampleInTheWindow :
    let s := at_ (ready 101 101 101 3 0x10000 0x80000 (2 ^ 32)) true
      ⟨.fill, 0#16, 0#16, 2#2, 100#7, 100#7⟩
    s.status.busy = true ∧ s.seq.phase = .fill ∧ s.tapAddr < s.cfg.pmemBytes ∧
    s.seq.a.toNat ≤ 100 ∧ s.seq.b.toNat ≤ 100 ∧ s.seq.ch.toNat ≤ 2 := by decide

/-- The last tap of the largest kernel. -/
theorem witness_MacAccumulatesTheLatchedSample :
    let s := at_ (ready 101 101 101 1 0x10000 0x80000 (2 ^ 32)) false
      ⟨.mac, 0#16, 0#16, 0#2, 100#7, 100#7⟩
    s.status.busy = true ∧ s.seq.phase = .mac ∧
    s.seq.a.toNat * s.ksize.toNat + s.seq.b.toNat ≤ 10200 := by decide

theorem witness_RedAccumulatesTheWindowSample :
    let s := at_ (ready 101 101 101 3 0x10000 0x80000 (2 ^ 32)) true
      ⟨.red, 0#16, 0#16, 2#2, 100#7, 100#7⟩
    s.status.busy = true ∧ s.seq.phase = .red ∧
    s.seq.a.toNat * s.ksize.toNat + s.seq.b.toNat ≤ 10200 ∧
    s.seq.a.toNat ≤ 100 ∧ s.seq.b.toNat ≤ 100 ∧ s.seq.ch.toNat ≤ 2 := by decide

theorem witness_OutStoresTheSampleAndAdvances :
    lastOut.status.busy = true ∧ lastOut.seq.phase = .out ∧ lastOut.outAddr < lastOut.cfg.pmemBytes := by
  decide

theorem witness_EngineChangesNothingUnlessEnabled :
    State.reset.status.busy = false ∧ (runState false).seq.phase ≠ .mac := by decide

/-- The seven places where a micro-operation stops, each in a state that stops there. -/
theorem witness_EngineStopsOutsideItsMemories :
    (let s := at_ (ready 1 1 1 1 0x10 0x20 0x10) false ⟨.pad, 0#16, 0#16, 0#2, 0#7, 0#7⟩;
      s.seq.phase = .pad ∧ s.cfg.pmemBytes ≤ s.tapAddr) ∧
    (let s := at_ (ready 1 1 1 1 0x10 0x20 0x10) true ⟨.fill, 0#16, 0#16, 0#2, 0#7, 0#7⟩;
      s.seq.phase = .fill ∧ s.cfg.pmemBytes ≤ s.tapAddr) ∧
    (let s := at_ (ready 1 1 1 1 0x10 0x20 0x100) true ⟨.fill, 0#16, 0#16, 3#2, 101#7, 101#7⟩;
      s.seq.phase = .fill ∧ s.tapAddr < s.cfg.pmemBytes ∧ 100 < s.seq.a.toNat ∧
      100 < s.seq.b.toNat ∧ 2 < s.seq.ch.toNat) ∧
    (let s := at_ (ready 101 1 1 1 0x10 0x20 0x100) false ⟨.mac, 0#16, 0#16, 0#2, 101#7, 0#7⟩;
      s.seq.phase = .mac ∧ 10200 < s.seq.a.toNat * s.ksize.toNat + s.seq.b.toNat) ∧
    (let s := at_ (ready 1 1 1 1 0x10 0x20 0x100) true ⟨.red, 0#16, 0#16, 3#2, 101#7, 101#7⟩;
      s.seq.phase = .red ∧ 100 < s.seq.a.toNat ∧ 100 < s.seq.b.toNat ∧ 2 < s.seq.ch.toNat) ∧
    (let s := at_ (ready 102 1 1 1 0x10 0x20 0x100) true ⟨.red, 0#16, 0#16, 2#2, 100#7, 100#7⟩;
      s.seq.phase = .red ∧ s.seq.a.toNat ≤ 100 ∧ s.seq.b.toNat ≤ 100 ∧ s.seq.ch.toNat ≤ 2 ∧
      10200 < s.seq.a.toNat * s.ksize.toNat + s.seq.b.toNat) ∧
    (let s := at_ (ready 1 1 1 1 0x0 0x10 0x10) false ⟨.out, 0#16, 0#16, 0#2, 0#7, 0#7⟩;
      s.seq.phase = .out ∧ s.cfg.pmemBytes ≤ s.outAddr) := by decide

theorem witness_StepRunsTheDecodedInstruction :
    (State.reset.setEvents [.rx 0x15#5 7#32]).events = .rx 0x15#5 7#32 :: [] ∧
    decode (.rx 0x15#5 7#32) = .ok (.wrWidth 7#32) ∧
    (State.reset.setEvents [.px 1#1 9#32 7#8]).events = .px 1#1 9#32 7#8 :: [] ∧
    decode (.px 1#1 9#32 7#8) = .ok (.pwr 9#32 7#8) ∧
    (State.reset.setEvents [.cmdw 2#32]).events = .cmdw 2#32 :: [] ∧
    decode (.cmdw 2#32) = .ok .clear ∧
    (State.reset.setEvents [.rx 0x0C#5 0#32]).events = .rx 0x0C#5 0#32 :: [] ∧
    (State.reset.setEvents [.rx 0x10#5 7#32]).events = .rx 0x10#5 7#32 :: [] ∧
    (State.reset.setEvents [.cmdw 4#32]).events = .cmdw 4#32 :: [] :=
  ⟨rfl, rfl, rfl, rfl, rfl, rfl, rfl, rfl, rfl⟩

theorem witness_EngineTurnRunsThePhase :
    (runState false).events = [] ∧ (runState false).status.busy = true ∧
    ((runState true).setEvents [.engine, .rst]).events = .engine :: [.rst] ∧
    State.reset.status.busy = false ∧
    (∀ p ∈ [Phase.idle, .pad, .mac, .out, .fill, .red],
      (at_ State.reset false { Seq.zero with phase := p }).seq.phase = p) :=
  ⟨rfl, rfl, rfl, rfl, fun _ _ => rfl⟩

theorem witness_PlacedTableWordRunsNext :
    decodeTableWord 32 1 = some .start ∧ decodeTableWord 3 5 = some .red := by decide

theorem witness_DecodeAndEncodeAgree :
    decode (.rx 3#5 0x1234#32) = .ok .rdStatus ∧ decode (.px 0#1 8#32 9#8) = .ok (.prd 8#32) ∧
    decode (.rx 0x1B#5 0x1234#32) = .ok (.wrKdata 0x1234#32) := ⟨rfl, rfl, rfl⟩

theorem witness_OnlyIllFormedInstructionsAreRefused :
    exec (.prd 0x10000#32) (ready 1 2 2 3 0 0x100 0x10000) = .refused .hostAddress ∧
    Instr.wellFormed (ready 1 2 2 3 0 0x100 0x10000).cfg (.prd 0x10000#32) = false := ⟨rfl, rfl⟩

/-! ### Arithmetic -/

/-- n = 1 + 2^-298 rounds down and 1.0 is a binary32 magnitude; 1 + 2^-24 lies halfway between 1.0 and
1 + 2^-23 (V-M13), and 1 + 3 · 2^-24 between 1 + 2^-23 and 1 + 2^-22 (V-M15). -/
theorem witness_RoundingPicksANearestValue :
    roundMag (2 ^ 149 * 2 ^ 149 + 1) < F32.limit ∧ (F32.fin false (2 ^ 149)).isBinary32 = true ∧
    roundMag ((2 ^ 149 + 2 ^ 125) * 2 ^ 149) = 2 ^ 149 ∧
    (F32.fin false (2 ^ 149 + 2 ^ 126)).isBinary32 = true ∧
    (((2 ^ 149 : Nat) * 2 ^ 149 : Int) - ((2 ^ 149 + 2 ^ 125) * 2 ^ 149 : Nat)).natAbs =
      (((2 ^ 149 + 2 ^ 126 : Nat) * 2 ^ 149 : Int) - ((2 ^ 149 + 2 ^ 125) * 2 ^ 149 : Nat)).natAbs ∧
    roundMag ((2 ^ 149 + 3 * 2 ^ 125) * 2 ^ 149) = 2 ^ 149 + 2 ^ 127 := by decide +kernel

/-- The thresholds themselves, from both sides. -/
theorem witness_RoundingLimitsAndFixedPoints :
    round32 true ((2 ^ 200 * 2 ^ 77 - 2 ^ 252) * 2 ^ 149) = .inf true ∧
    round32 true ((2 ^ 200 * 2 ^ 77 - 2 ^ 252) * 2 ^ 149 - 1) ≠ .inf true ∧
    round32 true (2 ^ 148) = .fin true 0 ∧ round32 true (2 ^ 148 + 1) = .fin true 1 ∧
    (F32.fin true 1).isBinary32 = true := by decide +kernel

theorem witness_ArithmeticStaysInBinary32 :
    (F32.ofBits 0x7F7FFFFF#32).isBinary32 = true ∧ (F32.ofBits 0x00000001#32).isBinary32 = true := by
  decide +kernel

theorem witness_AdditionIsCommutativeWithZeros :
    (F32.ofBits 0x80000001#32).isBinary32 = true ∧
    ∀ neg, F32.ofBits 0x80000001#32 ≠ .fin neg 0 := by decide +kernel

/-- At the bounds: 2^24 − 1 and 1, and 255 · 65793 = 2^24 − 1. -/
theorem witness_IntegerArithmeticIsExact :
    (16777215 : Int).natAbs ≤ 2 ^ 24 ∧ (1 : Int).natAbs ≤ 2 ^ 24 ∧
    ((16777215 : Int) + 1).natAbs ≤ 2 ^ 24 ∧ (255#8).toNat * 65793 < 2 ^ 24 := by decide

/-- One set of operands for each row of R173. -/
theorem witness_MacStepCornerCases :
    (F32.ofBits 0x42C80000#32).isBinary32 = true ∧
    (∃ sg mg, F32.ofBits 0x42C80000#32 = .fin sg mg ∧ mg ≠ 0) ∧
    F32.ofBits 0x7F7FFFFF#32 = .fin false ((2 ^ 23 + 0x7FFFFF) * 2 ^ 253) ∧
    F32.ofBits 0xFF800000#32 = .inf true ∧ F32.ofBits 0x7F800000#32 = .inf false ∧
    0 < (1#8).toNat ∧ F32.ofBits 0x7FC00000#32 = .nan ∧
    F32.ofBits 0x80000001#32 = .fin true 1 ∧ F32.ofBits 0x007FFFFF#32 = .fin false (2 ^ 23 - 1) :=
  ⟨by decide +kernel, ⟨false, (2 ^ 23 + 0x480000) * 2 ^ 132, by decide +kernel, by decide +kernel⟩,
    by decide +kernel⟩

/-- Both ends of every range, in halves: 0.5, 1 and 254, the ties 1.5 and 254.5, and just above 254.5. -/
theorem witness_SaturationByRanges :
    (2 ^ 148 : Int) = signedMag false (2 ^ 148) ∧
    ((2 * 1 - 1) * 2 ^ 148 : Int) < signedMag false (2 ^ 149) ∧
    signedMag false (254 * 2 ^ 149) < (2 * 254 + 1) * 2 ^ 148 ∧
    signedMag false (3 * 2 ^ 148) = (2 * 2 - 1) * 2 ^ 148 ∧
    signedMag false (509 * 2 ^ 148) = (2 * 254 + 1) * 2 ^ 148 ∧
    509 * 2 ^ 148 < signedMag false (509 * 2 ^ 148 + 1) ∧
    signedMag true (2 ^ 148) ≤ 2 ^ 148 := by decide +kernel

theorem witness_SaturationKeepsSamplesAndOrder :
    signedMag true (2 ^ 149) ≤ signedMag false (2 ^ 148 + 1) ∧
    (signedMag false (254 * 2 ^ 149 + 1) - (254 : Nat) * 2 ^ 149).natAbs < 2 ^ 148 := by decide +kernel

/-! ### Memories and invariants -/

theorem witness_CanonicalMemoriesAreEqualWhenTheyReadAlike :
    Memory.wf (Cells.write Config.pmemPowerOn [] 5 7#8) = true :=
  Cells.wf_write _ _ _ rfl

theorem witness_DestinationAddressesAreABijection :
    let s := runState false
    2 < s.w ∧ 2 < s.h ∧ 0 < s.chans ∧ s.inDest (s.dstAddr 2 2 0) := by
  refine ⟨by decide, by decide, by decide, ?_, ?_⟩ <;> decide

theorem witness_ResetSatisfiesTheInvariant :
    Config.default.wellFormed = true ∧ (Config.mk 1 0xFFFF0000).wellFormed = true := by decide

theorem witness_EveryStepKeepsTheInvariant :
    (∃ t, (runState false).Inv ∧ step (runState false) = .next t) ∧
    (∃ t, lastOut.Inv ∧ step lastOut = .next t) :=
  ⟨⟨_, runState_inv false, rfl⟩, ⟨_, lastOut_inv, rfl⟩⟩

theorem witness_NoInterleavingFaults : (runState true).Inv := runState_inv true

theorem witness_EngineAddressesStayInTheirRegions :
    lastOut.Inv ∧ lastOut.status.busy = true := ⟨lastOut_inv, rfl⟩

theorem witness_EngineWritesOnlyTheDestination :
    (∃ t, step lastOut = .next t) ∧ lastOut.Inv ∧ lastOut.engineNext ∧ ¬ lastOut.inDest 0x201 ∧
    lastOut.status.busy = true ∧ lastOut.inSource 0x100 := by
  refine ⟨⟨_, rfl⟩, lastOut_inv, .inl rfl, ?_, rfl, ?_⟩
  · rintro ⟨-, h⟩; exact absurd h (by decide)
  · exact ⟨by decide, by decide⟩

theorem witness_EngineTurnLeavesRegistersAndWeights :
    lastOut.engineNext ∧ ∃ t, step lastOut = .next t := ⟨.inl rfl, _, rfl⟩

/-- A move of each kind during a run: a dropped and an ignored register write, a register read, the two
pixel accesses, a command word. -/
theorem witness_HostMovesCannotTouchARun :
    ∀ e ∈ [Event.rx 0x15#5 5#32, .rx 0x10#5 5#32, .rx 0x03#5 0#32, .px 1#1 0x300#32 7#8,
        .px 0#1 0x300#32 0#8, .cmdw 1#32],
      ∃ (s t : State) (rest : List Event), s.status.busy = true ∧ s.events = e :: rest ∧
        e ≠ .engine ∧ e ≠ .rst ∧ step s = .next t := by
  intro e he
  simp only [List.mem_cons, List.not_mem_nil, or_false] at he
  rcases he with rfl | rfl | rfl | rfl | rfl | rfl <;>
    exact ⟨(runState false).setEvents [_], _, [], rfl, rfl, by decide, by decide, rfl⟩

theorem witness_ParametersNeverChange : ∃ t, step (runState true) = .next t := ⟨_, rfl⟩

theorem witness_ErrorsArriveOnlyWithCommands :
    ∃ t, step (State.reset.setEvents [.cmdw 7#32]) = .next t ∧ t.status.err = true ∧
      State.reset.status.err = false := ⟨_, rfl, rfl, rfl⟩

/-- A `START`, the last `OUT`, and a reset during a run. -/
theorem witness_BusyRisesByStartAndFallsByFinishOrReset :
    (∃ s t : State, s.Inv ∧ step s = .next t ∧ s.status.busy = false ∧ t.status.busy = true) ∧
    (∃ s t : State, s.Inv ∧ step s = .next t ∧ s.status.busy = true ∧ t.status.busy = false ∧
      t.status.done = true) ∧
    (∃ s t : State, s.Inv ∧ step s = .next t ∧ s.status.busy = true ∧ t.status.busy = false ∧
      t.status.done = false) :=
  ⟨⟨(ready 3 3 3 1 0x100 0x200 (2 ^ 32)).setEvents [.cmdw 1#32], _, setEvents_inv ready_inv _, rfl,
      rfl, rfl⟩,
   ⟨lastOut, _, lastOut_inv, rfl, rfl, rfl, rfl⟩,
   ⟨lastOut.setEvents [.rst], _, setEvents_inv lastOut_inv _, rfl, rfl, rfl, rfl⟩⟩

/-- The end of a run, an illegal command, and a write of `CTRL` after a finished run. -/
theorem witness_IrqRisesOnlyForItsCauses :
    (∃ s t : State, step s = .next t ∧ s.irq = false ∧ t.irq = true ∧ t.status.done = true) ∧
    (∃ s t : State, step s = .next t ∧ s.irq = false ∧ t.irq = true ∧ t.status.err = true) ∧
    (∃ s t : State, step s = .next t ∧ s.irq = false ∧ t.irq = true ∧ s.ctrl.ie = false) :=
  ⟨⟨{ lastOut with ctrl := ⟨true, false, false⟩ }, _, rfl, rfl, rfl, rfl⟩,
   ⟨{ State.reset with ctrl := ⟨true, false, false⟩, events := [.cmdw 7#32] }, _, rfl, rfl, rfl, rfl⟩,
   ⟨{ doneState with ctrl := Ctrl.zero, events := [.rx 0x12#5 1#32] }, _, rfl, rfl, rfl, rfl⟩⟩

/-! ### Whole runs -/

/-- A run of one sample, about to begin. -/
def oneRun : State := at_ (ready 1 1 1 1 0x100 0x200 (2 ^ 32)) false (firstSeq false)

theorem oneRun_inv : oneRun.Inv :=
  { cfgRange := by decide
    busyClean := by decide
    errIff := by decide
    errCodes := by decide
    idleIff := by decide
    idleSeq := by decide
    run := fun _ =>
      { checks := by decide, jRange := by decide, iRange := by decide, chRange := by decide
        aRange := by decide, bRange := by decide, outTap := by decide, direct := by decide
        window := by decide }
    accFresh := fun _ => rfl
    accBinary32 := by decide
    mem := ⟨rfl, rfl, rfl, rfl, rfl, rfl⟩ }

theorem witness_FillMaterialisesTheWindow :
    let s := runState true
    s.Inv ∧ s.status.busy = true ∧ s.seq.phase = .fill ∧ s.seq.ch = 0#2 ∧ s.seq.a = 0#7 ∧
    s.seq.b = 0#7 ∧ s.events = [] ∧ ¬ (3 < s.k ∧ 0 < s.k ∧ 0 < s.chans) :=
  ⟨runState_inv true, rfl, rfl, rfl, rfl, rfl, rfl, by decide⟩

/-- Two engine turns with a dropped register write and a pixel write elsewhere between them, then the
last. -/
theorem witness_RunIgnoresTheHostElsewhere :
    ∃ (s : State) (es rest : List Event), s.Inv ∧ s.status = { Status.zero with busy := true } ∧
      s.seq = firstSeq s.ctrl.strat ∧ s.events = es ++ .engine :: rest ∧
      es.count .engine + 1 = s.runSteps ∧ (∀ e ∈ es, s.quiet e) ∧ ∃ e ∈ es, writesRegister e = true := by
  refine ⟨oneRun.setEvents [.engine, .rx 0x15#5 5#32, .px 1#1 0x300#32 7#8, .engine, .engine],
    [.engine, .rx 0x15#5 5#32, .px 1#1 0x300#32 7#8, .engine], [], setEvents_inv oneRun_inv _, rfl, rfl,
    rfl, by decide, ?_, .rx 0x15#5 5#32, by decide, rfl⟩
  intro e he
  simp only [List.mem_cons, List.not_mem_nil, or_false] at he
  rcases he with rfl | rfl | rfl | rfl
  · trivial
  · trivial
  · refine ⟨by decide, fun _ => ⟨?_, ?_⟩⟩ <;> (rintro ⟨-, h⟩; exact absurd h (by decide))
  · trivial

theorem witness_AcceptedStartBeginsARun :
    let s := ready 3 3 3 1 0x100 0x200 (2 ^ 32)
    s.Inv ∧ s.status.busy = false ∧ startCheck s = none ∧ s.events = [] :=
  ⟨ready_inv, rfl, by decide, rfl⟩

theorem witness_RunTakesExactlyItsSteps :
    (runState true).runBegins ∧
    0 < (runState true).w * (runState true).h * (runState true).chans * (2 * (runState true).k ^ 2 + 1) :=
  ⟨runState_begins true, by decide⟩

theorem witness_RunComputesTheConvolution :
    (runState false).runBegins ∧ (runState true).runBegins :=
  ⟨runState_begins false, runState_begins true⟩

theorem witness_StrategiesGiveTheSameResult :
    (runState false).runBegins ∧ (runState true).runBegins ∧
    (runState false).ctrl.rgb = (runState true).ctrl.rgb ∧
    (runState false).width = (runState true).width ∧
    (runState false).height = (runState true).height ∧
    (runState false).ksize = (runState true).ksize ∧
    (runState false).srcBase = (runState true).srcBase ∧
    (runState false).dstBase = (runState true).dstBase ∧
    (∀ x, (runState false).pmemByte x = (runState true).pmemByte x) ∧
    (∀ n, (runState false).kmemWord n = (runState true).kmemWord n) :=
  ⟨runState_begins false, runState_begins true, rfl, rfl, rfl, rfl, rfl, rfl, fun _ => rfl, fun _ => rfl⟩

/-- The 3 × 3 identity kernel, with zeros of both signs around the 1.0. -/
def identityRun : State :=
  (((((((((runState false).setKmemWord 0 0#32).setKmemWord 1 0x80000000#32).setKmemWord 2 0#32).setKmemWord
    3 0#32).setKmemWord 4 0x3F800000#32).setKmemWord 5 0#32).setKmemWord 6 0x80000000#32).setKmemWord
    7 0#32).setKmemWord 8 0#32

theorem identityRun_begins : identityRun.runBegins := by
  refine ⟨?_, rfl, rfl, rfl⟩
  unfold identityRun
  repeat (first | exact runState_inv false | (refine setKmemWord_inv ?_ _ (by decide)))

theorem witness_IdentityKernelReproducesTheSource :
    identityRun.runBegins ∧
    (∀ a b, a < identityRun.k → b < identityRun.k →
      if a = identityRun.radius ∧ b = identityRun.radius then
        identityRun.kmemWord (a * identityRun.k + b) = 0x3F800000#32
      else identityRun.kmemWord (a * identityRun.k + b) = 0x00000000#32 ∨
        identityRun.kmemWord (a * identityRun.k + b) = 0x80000000#32) := by
  refine ⟨identityRun_begins, ?_⟩
  have hk : identityRun.k = 3 := rfl
  have hr : identityRun.radius = 1 := rfl
  rw [hk, hr]
  intro a b ha hb
  have hab : (a = 0 ∨ a = 1 ∨ a = 2) ∧ (b = 0 ∨ b = 1 ∨ b = 2) := by omega
  rcases hab with ⟨rfl | rfl | rfl, rfl | rfl | rfl⟩ <;>
    simp [identityRun, State.kmemWord_setKmemWord]

end Sys2Proof.Tests
end

/-! ## What an instruction and a step do, by kind -/

namespace Sys2Proof.Machine

/-- The word a register read returns (R112); none for an instruction that reads no register. -/
def readWord (s : State) : Instr → Option Word
  | .rdId => some Config.idValue
  | .rdCap => some Config.capValue
  | .rdCtrl => some (ctrlWord s.ctrl)
  | .rdStatus => some (statusWord s.status)
  | .rdCmd => some 0#32
  | .rdWidth => some (s.width.setWidth 32)
  | .rdHeight => some (s.height.setWidth 32)
  | .rdKsize => some (s.ksize.setWidth 32)
  | .rdSrcBase => some s.srcBase
  | .rdDstBase => some s.dstBase
  | .rdKaddr => some (s.kaddr.setWidth 32)
  | .rdKdata => some s.kdataWord
  | _ => none

/-- The effect of a register write or a command once it is accepted (R111, R120); none for an
instruction that is neither. -/
def writeEffect : Instr → Option (State → State)
  | .nop => some nopEffect
  | .start => some startEffect
  | .clear => some clearEffect
  | .sreset => some sresetEffect
  | .wrCtrl data => some fun s => { s with ctrl := ctrlOfWord data }
  | .wrCmd data => some (commandEffect data)
  | .wrWidth data => some fun s => { s with width := data.setWidth 16 }
  | .wrHeight data => some fun s => { s with height := data.setWidth 16 }
  | .wrKsize data => some fun s => { s with ksize := data.setWidth 8 }
  | .wrSrcBase data => some fun s => { s with srcBase := data }
  | .wrDstBase data => some fun s => { s with dstBase := data }
  | .wrKaddr data => some fun s => { s with kaddr := data.setWidth 14 }
  | .wrKdata data => some (kdataEffect data)
  | _ => none

/-- Every instruction is a register read, a register write or command, a micro-operation, or a pixel
access; the first two always answer a next state. -/
theorem exec_cases (i : Instr) (s : State) :
    (∃ v, readWord s i = some v ∧ exec i s = .next (s.setReply (.word v))) ∨
    (∃ effect, writeEffect i = some effect ∧ exec i s = .next (acceptWrite effect s)) ∨
    (∃ p, i = phaseInstr p) ∨ (∃ addr, i = .prd addr) ∨ (∃ addr data, i = .pwr addr data) := by
  cases i with
  | rdId | rdCap | rdCtrl | rdStatus | rdCmd | rdWidth | rdHeight | rdKsize | rdSrcBase | rdDstBase
  | rdKaddr | rdKdata => exact .inl ⟨_, rfl, rfl⟩
  | nop | start | clear | sreset | wrCtrl | wrCmd | wrWidth | wrHeight | wrKsize | wrSrcBase
  | wrDstBase | wrKaddr | wrKdata => exact .inr (.inl ⟨_, rfl, rfl⟩)
  | idle => exact .inr (.inr (.inl ⟨.idle, rfl⟩))
  | pad => exact .inr (.inr (.inl ⟨.pad, rfl⟩))
  | mac => exact .inr (.inr (.inl ⟨.mac, rfl⟩))
  | out => exact .inr (.inr (.inl ⟨.out, rfl⟩))
  | fill => exact .inr (.inr (.inl ⟨.fill, rfl⟩))
  | red => exact .inr (.inr (.inl ⟨.red, rfl⟩))
  | prd addr => exact .inr (.inr (.inr (.inl ⟨addr, rfl⟩)))
  | pwr addr data => exact .inr (.inr (.inr (.inr ⟨addr, data, rfl⟩)))

/-- A packet without a row that reaches a next state returned 0 (R23), did nothing (R113), or was a
write of an illegal word to `CMD` (R118). -/
theorem runReject_next {r : Reject} {s t : State} (h : runReject r s = .next t) :
    t = s.setReply (.word 0#32) ∨ t = s ∨ ∃ word, t = acceptWrite (commandEffect word) s := by
  cases r with
  | unmappedRead widx => exact .inl (Host.Outcome.next.inj h).symm
  | ignoredWrite widx => exact .inr (.inl (Host.Outcome.next.inj h).symm)
  | illegalCommand word => exact .inr (.inr ⟨word, (Host.Outcome.next.inj h).symm⟩)
  | unusedPhase code => cases h

theorem eventPacket_eq_none {e : Event} {s : State} : eventPacket e s = none ↔ e = .rst := by
  cases e <;> simp [eventPacket]

/-- An event that reaches a next state was `rst`, or brought a packet with a row or without one. -/
theorem runEvent_next {e : Event} {s t : State} (h : runEvent e s = .next t) :
    (e = .rst ∧ t = hardReset s) ∨
    (∃ p i, eventPacket e s = some p ∧ decode p = .ok i ∧ exec i s = .next t) ∨
    (∃ p r, eventPacket e s = some p ∧ decode p = .error r ∧ runReject r s = .next t) := by
  unfold runEvent at h
  cases hp : eventPacket e s with
  | none =>
    rw [hp] at h
    exact .inl ⟨eventPacket_eq_none.1 hp, (Host.Outcome.next.inj h).symm⟩
  | some p =>
    rw [hp] at h
    replace h : runPacket p s = .next t := h
    cases hd : decode p with
    | ok i => exact .inr (.inl ⟨p, i, rfl, hd, runPacket_ok s hd ▸ h⟩)
    | error r => exact .inr (.inr ⟨p, r, rfl, hd, runPacket_error s hd ▸ h⟩)

/-! ## The parameters are kept -/

@[simp] theorem startEffect_cfg (s : State) : (startEffect s).cfg = s.cfg := by
  rcases startEffect_cases s with ⟨e, -, h⟩ | ⟨-, h⟩ <;> simp [h]

@[simp] theorem commandEffect_cfg (w : Word) (s : State) : (commandEffect w s).cfg = s.cfg := by
  rcases commandEffect_cases w s with ⟨-, h⟩ | ⟨-, h⟩ | ⟨-, h⟩ | ⟨-, h⟩ | ⟨-, h⟩ <;> simp [h]

@[simp] theorem kdataEffect_cfg (data : Word) (s : State) : (kdataEffect data s).cfg = s.cfg := by
  unfold kdataEffect
  split <;> rfl

@[simp] theorem advanceOut_cfg (s : State) : (advanceOut s).cfg = s.cfg := by
  rcases advanceOut_cases s with ⟨q, -, h⟩ | ⟨-, h⟩ <;> simp [h]

theorem writeEffect_cfg {i : Instr} {effect : State → State} (h : writeEffect i = some effect)
    (s : State) : (effect s).cfg = s.cfg := by
  cases i <;> cases h
  case start => exact startEffect_cfg s
  case wrCmd data => exact commandEffect_cfg data s
  case wrKdata data => exact kdataEffect_cfg data s
  all_goals rfl

theorem acceptWrite_cfg {effect : State → State} {s : State} (h : (effect s).cfg = s.cfg) :
    (acceptWrite effect s).cfg = s.cfg := by
  rcases acceptWrite_cases effect s with ⟨-, ha⟩ | ⟨-, ha⟩ <;> simp [ha, h]

/-- No micro-operation changes the parameters. -/
theorem exec_phaseInstr_cfg {p : Phase} {s t : State} (h : exec (phaseInstr p) s = .next t) :
    t.cfg = s.cfg := by
  cases p with
  | idle => rw [← Host.Outcome.next.inj h]
  | pad => rcases execPad_next h with rfl | ⟨-, -, -, rfl⟩ <;> simp
  | mac => rcases execMac_next h with rfl | ⟨-, -, -, rfl⟩ <;> simp
  | out => rcases execOut_next h with rfl | ⟨-, -, -, rfl⟩ <;> simp
  | fill => rcases execFill_next h with rfl | ⟨-, -, -, -, rfl⟩ <;> simp
  | red => rcases execRed_next h with rfl | ⟨-, -, -, -, rfl⟩ <;> simp

theorem exec_cfg {i : Instr} {s t : State} (h : exec i s = .next t) : t.cfg = s.cfg := by
  rcases exec_cases i s with ⟨v, -, hi⟩ | ⟨effect, he, hi⟩ | ⟨p, rfl⟩ | ⟨addr, rfl⟩ | ⟨addr, data, rfl⟩
  · cases hi.symm.trans h
    rfl
  · cases hi.symm.trans h
    exact acceptWrite_cfg (writeEffect_cfg he s)
  · exact exec_phaseInstr_cfg h
  · rcases execPrd_cases addr s with ⟨-, hi⟩ | ⟨-, hi⟩ <;> cases hi.symm.trans h
    rfl
  · rcases execPwr_cases addr data s with ⟨-, hi⟩ | ⟨-, hi⟩ <;> cases hi.symm.trans h
    rfl

theorem runEvent_cfg {e : Event} {s t : State} (h : runEvent e s = .next t) : t.cfg = s.cfg := by
  rcases runEvent_next h with ⟨-, rfl⟩ | ⟨-, i, -, -, hi⟩ | ⟨-, r, -, -, hr⟩
  · rfl
  · exact exec_cfg hi
  · rcases runReject_next hr with rfl | rfl | ⟨word, rfl⟩
    · rfl
    · rfl
    · exact acceptWrite_cfg (commandEffect_cfg word s)

/-- Settles O46: a step is one event, and no event's effect writes `cfg`. -/
theorem parametersNeverChange : Obligations.ParametersNeverChange := by
  intro s t h
  rcases step_cases s with ⟨-, hs⟩ | ⟨e, rest, -, hs⟩
  · exact runEvent_cfg (hs.symm.trans h)
  · exact (runEvent_cfg (hs.symm.trans h)).trans (State.setEvents_cfg s rest)

/-! ## Where an enabled micro-operation stops -/

theorem winHas_eq_false {a b c : Nat} : winHas a b c = false ↔ 100 < a ∨ 100 < b ∨ 2 < c := by
  rw [← Bool.not_eq_true]
  simp only [winHas, Bool.and_eq_true, decide_eq_true_eq]
  omega

theorem winHas_eq_true {a b c : Nat} : winHas a b c = true ↔ a ≤ 100 ∧ b ≤ 100 ∧ c ≤ 2 := by
  simp only [winHas, Bool.and_eq_true, decide_eq_true_eq]
  omega

section
variable {s : State} (hb : s.status.busy = true)
include hb

theorem execPad_fault_of_address (hp : s.seq.phase = .pad) (ha : s.cfg.pmemBytes ≤ s.tapAddr) :
    execPad s = .fault .engineAddress := by
  rw [execPad, whenEnabled_on _ hb hp, State.memRead_of_ge ha]

theorem execFill_fault_of_address (hp : s.seq.phase = .fill) (ha : s.cfg.pmemBytes ≤ s.tapAddr) :
    execFill s = .fault .engineAddress := by
  rw [execFill, whenEnabled_on _ hb hp, State.memRead_of_ge ha]

theorem execFill_fault_of_entry (hp : s.seq.phase = .fill) (ha : s.tapAddr < s.cfg.pmemBytes)
    (hw : winHas s.seq.a.toNat s.seq.b.toNat s.seq.ch.toNat = false) :
    execFill s = .fault .windowIndex := by
  rw [execFill, whenEnabled_on _ hb hp, State.memRead_of_lt ha]
  simp [hw]

theorem execMac_fault_of_weight (hp : s.seq.phase = .mac) (hk : Config.kmemDepth ≤ s.tapWeight) :
    execMac s = .fault .weightIndex := by
  rw [execMac, whenEnabled_on _ hb hp, State.weight_of_ge hk]

theorem execRed_fault_of_entry (hp : s.seq.phase = .red)
    (hw : winHas s.seq.a.toNat s.seq.b.toNat s.seq.ch.toNat = false) :
    execRed s = .fault .windowIndex := by
  rw [execRed, whenEnabled_on _ hb hp]
  simp [hw]

theorem execRed_fault_of_weight (hp : s.seq.phase = .red)
    (hw : winHas s.seq.a.toNat s.seq.b.toNat s.seq.ch.toNat = true)
    (hk : Config.kmemDepth ≤ s.tapWeight) : execRed s = .fault .weightIndex := by
  rw [execRed, whenEnabled_on _ hb hp, State.weight_of_ge hk]
  simp [hw]

theorem execOut_fault_of_address (hp : s.seq.phase = .out) (ha : s.cfg.pmemBytes ≤ s.outAddr) :
    execOut s = .fault .engineAddress := by
  rw [execOut, whenEnabled_on _ hb hp, State.memWrite_of_ge]
  exact ha

end

/-- Settles O21: an enabled micro-operation is its step, and each step stops where its first access
that does not exist is. -/
theorem engineStopsOutsideItsMemories : Obligations.EngineStopsOutsideItsMemories := by
  intro s hb
  refine ⟨execPad_fault_of_address hb, execFill_fault_of_address hb, ?_, execMac_fault_of_weight hb,
    ?_, ?_, execOut_fault_of_address hb⟩
  · intro hp ha hw
    exact execFill_fault_of_entry hb hp ha (winHas_eq_false.2 hw)
  · intro hp hw
    exact execRed_fault_of_entry hb hp (winHas_eq_false.2 hw)
  · intro hp ha hb' hc hk
    exact execRed_fault_of_weight hb hp (winHas_eq_true.2 ⟨ha, hb', hc⟩) hk

end Sys2Proof.Machine

/-! ## The accumulator stays a binary32 value -/

namespace Sys2Proof.Machine

/-- A significand of at most 24 bits times a power of two is a multiple of the spacing its leading bit
asks for (R155). -/
theorem mul_two_pow_mod_spacing {q e : Nat} (hq : q ≤ 2 ^ 24) :
    q * 2 ^ e % 2 ^ ((q * 2 ^ e).log2 - 23) = 0 := by
  rcases Nat.eq_zero_or_pos q with rfl | hpos
  · simp
  · have hne : q * 2 ^ e ≠ 0 := (Nat.mul_pos hpos (by positivity)).ne'
    rcases hq.eq_or_lt with rfl | hlt
    · rw [← pow_add, Nat.log2_two_pow]
      exact Nat.mod_eq_zero_of_dvd (pow_dvd_pow 2 (by omega))
    · have hlog : (q * 2 ^ e).log2 < 24 + e :=
        (Nat.log2_lt hne).2 (pow_add 2 24 e ▸ Nat.mul_lt_mul_of_pos_right hlt (by positivity))
      exact Nat.mod_eq_zero_of_dvd ((pow_dvd_pow 2 (by omega)).mul_left q)

theorem rne_le_of_lt {n d m : Nat} (h : n < m * d) : rne n d ≤ m := by
  have hq : n / d < m := Nat.div_lt_of_lt_mul (Nat.mul_comm m d ▸ h)
  simp only [rne]
  split_ifs <;> omega

/-- The rounded magnitude is a significand of at most 24 bits times the spacing of R159. -/
theorem roundMag_eq (n : Nat) : ∃ q e, roundMag n = q * 2 ^ e ∧ q ≤ 2 ^ 24 := by
  refine ⟨_, _, rfl, rne_le_of_lt ?_⟩
  rw [← pow_add]
  split_ifs with hn
  · exact hn.trans (by norm_num)
  · have hlog : 172 ≤ n.log2 := (Nat.le_log2 (by omega)).2 (Nat.le_of_not_lt hn)
    have : 24 + (n.log2 - 23) = n.log2 + 1 := by omega
    rw [this]
    exact Nat.lt_log2_self

theorem round32_isBinary32 (neg : Bool) (n : Nat) : (round32 neg n).isBinary32 = true := by
  unfold round32
  split_ifs with h
  · rfl
  · obtain ⟨q, e, he, hq⟩ := roundMag_eq n
    have hmod := mul_two_pow_mod_spacing (e := e) hq
    rw [← he] at hmod
    simp [F32.isBinary32, hmod, Nat.lt_of_not_le h]

theorem zero_isBinary32 (neg : Bool) : (F32.fin neg 0).isBinary32 = true := rfl

/-- A sum is a binary32 value whatever its operands: it is rounded, or an exact zero, or not finite. -/
theorem fadd32_isBinary32 (x y : F32) : (fadd32 x y).isBinary32 = true := by
  unfold fadd32
  split
  case h_1 | h_2 | h_4 | h_5 => rfl
  case h_3 => split_ifs <;> rfl
  case h_6 =>
    dsimp only
    split_ifs
    · exact zero_isBinary32 _
    · exact zero_isBinary32 _
    · exact round32_isBinary32 _ _

theorem macStep_isBinary32 (acc : F32) (v : Byte) (p : Word) :
    (macStep acc v p).isBinary32 = true := fadd32_isBinary32 _ _

end Sys2Proof.Machine

/-! ## The sequencer stays in its ranges -/

namespace Sys2Proof.Machine

/-- The checks of `START` over the integers: none fails exactly when R245 to R249 all pass. -/
theorem startCheck_eq_none {s : State} : startCheck s = none ↔
    s.k % 2 = 1 ∧ s.k ≤ Config.kmax ∧ 0 < s.w ∧ 0 < s.h ∧ s.k ≤ min s.w s.h ∧
    s.src + s.bufBytes ≤ s.cfg.pmemBytes ∧ s.dst + s.bufBytes ≤ s.cfg.pmemBytes ∧
    (s.dst + s.bufBytes ≤ s.src ∨ s.src + s.bufBytes ≤ s.dst) := by
  unfold startCheck
  split_ifs <;> simp only [false_iff, true_iff] <;> omega

/-- The part of `State.RunInv` that speaks of the position alone: the ranges of R214, and that `PHASE`
fits the strategy (R47). -/
structure Seq.InRange (strat : Bool) (w h c k : Nat) (q : Seq) : Prop where
  j : q.j.toNat < h
  i : q.i.toNat < w
  ch : q.ch.toNat < c
  a : q.a.toNat < k
  b : q.b.toNat < k
  outTap : q.phase = .out → q.a = 0#7 ∧ q.b = 0#7
  direct : q.phase = .pad ∨ q.phase = .mac → strat = false
  window : q.phase = .fill ∨ q.phase = .red → strat = true

/-- The position of a state lies in the ranges its own operands give. -/
def State.seqInRange (s : State) (q : Seq) : Prop := q.InRange s.ctrl.strat s.w s.h s.chans s.k

theorem State.runInv_iff {s : State} :
    s.RunInv ↔ startCheck s = none ∧ s.seqInRange s.seq :=
  ⟨fun ⟨hc, hj, hi, hch, ha, hb, ho, hd, hw⟩ => ⟨hc, hj, hi, hch, ha, hb, ho, hd, hw⟩,
   fun ⟨hc, hj, hi, hch, ha, hb, ho, hd, hw⟩ => ⟨hc, hj, hi, hch, ha, hb, ho, hd, hw⟩⟩

/-- The positions at which `ACC` is +0 (R213). -/
def Seq.Fresh (q : Seq) : Prop :=
  q.phase = .idle ∨ q.phase = .fill ∨ (q.phase ≠ .out ∧ q.a = 0#7 ∧ q.b = 0#7)

/-- The phases in which the engine works on a tap, by the strategy (R47). -/
def Phase.OnTap (strat : Bool) (p : Phase) : Prop :=
  (p = .pad ∨ p = .mac) ∧ strat = false ∨ (p = .fill ∨ p = .red) ∧ strat = true

theorem Phase.OnTap.ne_idle {strat : Bool} {p : Phase} (hp : p.OnTap strat) : p ≠ .idle := by
  rcases hp with ⟨rfl | rfl, -⟩ | ⟨rfl | rfl, -⟩ <;> decide

/-- A counter below an existing index does not wrap. -/
theorem toNat_add_one {n : Nat} {x : BitVec n} (hx : x.toNat + 1 < 2 ^ n) :
    (x + 1#n).toNat = x.toNat + 1 := by
  have hn : n ≠ 0 := by rintro rfl; simp at hx
  rw [BitVec.toNat_add_of_lt] <;> simp [Nat.mod_eq_of_lt (Nat.one_lt_two_pow hn), hx]

section
variable {strat : Bool} {w h c k : Nat} {q : Seq}

theorem Seq.InRange.of_onTap (hj : q.j.toNat < h) (hi : q.i.toNat < w) (hch : q.ch.toNat < c)
    (ha : q.a.toNat < k) (hb : q.b.toNat < k) (hp : q.phase.OnTap strat) :
    q.InRange strat w h c k := by
  refine ⟨hj, hi, hch, ha, hb, ?_, ?_, ?_⟩ <;>
    rcases hp with ⟨hp | hp, hs⟩ | ⟨hp | hp, hs⟩ <;> simp [hp, hs]

theorem Seq.InRange.afterPad (hq : q.InRange strat w h c k) (hp : q.phase = .pad) :
    (afterPad q).InRange strat w h c k :=
  .of_onTap hq.j hq.i hq.ch hq.a hq.b (.inl ⟨.inr rfl, hq.direct (.inl hp)⟩)

/-- The next tap of `MAC` and of `RED`. -/
theorem Seq.InRange.afterTap {again : Phase} (hq : q.InRange strat w h c k) (hk : k ≤ 101)
    (hagain : again.OnTap strat) : (afterTap k again q).InRange strat w h c k := by
  have hk0 : 0 < k := Nat.zero_lt_of_lt hq.a
  unfold Machine.afterTap
  split_ifs with hb ha
  · have hb' : (q.b + 1#7).toNat < k := by rwa [toNat_add_one (by omega)]
    exact .of_onTap hq.j hq.i hq.ch hq.a hb' hagain
  · have ha' : (q.a + 1#7).toNat < k := by rwa [toNat_add_one (by omega)]
    exact .of_onTap hq.j hq.i hq.ch ha' hk0 hagain
  · exact ⟨hq.j, hq.i, hq.ch, hk0, hk0, fun _ => ⟨rfl, rfl⟩, by simp, by simp⟩

theorem Seq.InRange.afterFill (hq : q.InRange strat w h c k) (hc : c ≤ 3) (hk : k ≤ 101)
    (hp : q.phase = .fill) : (afterFill c k q).InRange strat w h c k := by
  have hs : strat = true := hq.window (.inl hp)
  have hfill : q.phase.OnTap strat := .inr ⟨.inl hp, hs⟩
  have hc0 : 0 < c := Nat.zero_lt_of_lt hq.ch
  have hk0 : 0 < k := Nat.zero_lt_of_lt hq.a
  unfold Machine.afterFill
  split_ifs with hch hb ha
  · have hch' : (q.ch + 1#2).toNat < c := by rwa [toNat_add_one (by omega)]
    exact .of_onTap hq.j hq.i hch' hq.a hq.b hfill
  · have hb' : (q.b + 1#7).toNat < k := by rwa [toNat_add_one (by omega)]
    exact .of_onTap hq.j hq.i hc0 hq.a hb' hfill
  · have ha' : (q.a + 1#7).toNat < k := by rwa [toNat_add_one (by omega)]
    exact .of_onTap hq.j hq.i hc0 ha' hk0 hfill
  · exact .of_onTap hq.j hq.i hc0 hk0 hk0 (.inr ⟨.inr rfl, hs⟩)

theorem onTap_ite {p : Phase} (hp : p = .fill ∨ p = .red) :
    (if strat then p else .pad).OnTap strat := by
  cases strat
  · exact .inl ⟨.inl rfl, rfl⟩
  · exact .inr ⟨hp, rfl⟩

/-- The sample after `OUT` starts at its first tap, in the strategy's first phase for it. -/
theorem Seq.InRange.afterOut {q' : Seq} (hq : q.InRange strat w h c k) (hw : w < 2 ^ 16)
    (hh : h < 2 ^ 16) (hc : c ≤ 3) (hn : afterOut strat w h c q = some q') :
    q'.InRange strat w h c k ∧ q'.phase ≠ .idle := by
  have hw0 : 0 < w := Nat.zero_lt_of_lt hq.i
  have hc0 : 0 < c := Nat.zero_lt_of_lt hq.ch
  unfold Machine.afterOut at hn
  split at hn
  next hch =>
    cases hn
    have hch' : (q.ch + 1#2).toNat < c := by rwa [toNat_add_one (by omega)]
    have hp : (if strat then Phase.red else .pad).OnTap strat := onTap_ite (.inr rfl)
    exact ⟨.of_onTap hq.j hq.i hch' hq.a hq.b hp, hp.ne_idle⟩
  have hp : (if strat then Phase.fill else .pad).OnTap strat := onTap_ite (.inl rfl)
  split at hn
  next hi =>
    cases hn
    have hi' : (q.i + 1#16).toNat < w := by rwa [toNat_add_one (by omega)]
    exact ⟨.of_onTap hq.j hi' hc0 hq.a hq.b hp, hp.ne_idle⟩
  split at hn
  next hj =>
    cases hn
    have hj' : (q.j + 1#16).toNat < h := by rwa [toNat_add_one (by omega)]
    exact ⟨.of_onTap hj' hw0 hc0 hq.a hq.b hp, hp.ne_idle⟩
  next => cases hn

theorem add_one_ne_zero {n : Nat} {x : BitVec n} (hx : x.toNat + 1 < 2 ^ n) : x + 1#n ≠ 0#n := by
  intro h
  have := toNat_add_one hx
  simp [h] at this

/-- Past a tap the position is never one at which `ACC` must be +0. -/
theorem not_fresh_afterTap {again : Phase} (hagain : again = .pad ∨ again = .red) (hk : k ≤ 101) :
    ¬ (afterTap k again q).Fresh := by
  unfold Seq.Fresh afterTap
  split_ifs with hb ha
  · have hne : q.b + 1#7 ≠ 0#7 := add_one_ne_zero (by omega)
    rcases hagain with rfl | rfl <;> simp [hne]
  · have hne : q.a + 1#7 ≠ 0#7 := add_one_ne_zero (by omega)
    rcases hagain with rfl | rfl <;> simp [hne]
  · simp

theorem afterTap_ne_idle {again : Phase} (hagain : again ≠ .idle) :
    (afterTap k again q).phase ≠ .idle := by
  unfold afterTap
  split_ifs <;> simp [hagain]

theorem afterFill_ne_idle (hp : q.phase = .fill) : (afterFill c k q).phase ≠ .idle := by
  unfold afterFill
  split_ifs <;> simp [hp]

end

end Sys2Proof.Machine

/-! ## What keeps the invariant -/

namespace Sys2Proof.Machine

variable {s : State}

/-- `ERR` and `ERRCODE` agree, and the code is one the block raises (R57 (b), (c)). -/
def Status.ErrOk (st : Status) : Prop :=
  (st.err = false ↔ st.errcode = 0#4) ∧ st.errcode ∈ [0#4, 1#4, 2#4, 4#4, 5#4, 6#4]

theorem Status.zero_errOk : Status.zero.ErrOk := by simp [Status.ErrOk, Status.zero]

theorem Status.errOk_raised (st : Status) (e : Err) :
    ({ st with err := true, errcode := errCode e } : Status).ErrOk := by
  cases e <;> simp [Status.ErrOk, errCode]

/-- A state that is not busy satisfies the invariant as soon as its parameters, error fields and memories
do and the sequencer and `ACC` are at rest (R46, R57, R213). -/
theorem State.Inv.of_idle (hcfg : s.cfg.wellFormed = true) (hbusy : s.status.busy = false)
    (herr : s.status.ErrOk) (hseq : s.seq = Seq.zero) (hacc : s.acc = F32.zero)
    (hmem : s.MemInv) : s.Inv :=
  { cfgRange := hcfg
    busyClean := fun hb => by simp [hbusy] at hb
    errIff := herr.1
    errCodes := herr.2
    idleIff := ⟨fun _ => by rw [hseq]; rfl, fun _ => hbusy⟩
    idleSeq := fun _ => hseq
    run := fun hb => by simp [hbusy] at hb
    accFresh := fun _ => hacc
    accBinary32 := hacc ▸ zero_isBinary32 false
    mem := hmem }

/-! ### Updates that neither the position nor the operands see -/

theorem State.Inv.checks_seq (h : s.Inv) (hb : s.status.busy = true) :
    startCheck s = none ∧ s.seqInRange s.seq :=
  State.runInv_iff.1 (h.run hb)

/-- Of the fields replaced here the invariant reads only the memories, and those through `State.MemInv`. -/
theorem State.Inv.of_memInv (h : s.Inv) {nv wign : Bool} {kmem : List (Nat × Word)} {sample : Byte}
    {win : List (Nat × Byte)} {pmem : List Host.Cell} {reply : Option Reply} {events : List Event}
    (hmem : State.MemInv { s with kmem := kmem, win := win, pmem := pmem }) :
    State.Inv { s with
      status := { s.status with nv := nv, wign := wign }, kmem := kmem, sample := sample
      win := win, pmem := pmem, reply := reply, events := events } :=
  { h with
    run := fun hb => State.runInv_iff.2 (h.checks_seq hb)
    mem := { hmem with } }

theorem State.Inv.setEvents (h : s.Inv) (es : List Event) : (s.setEvents es).Inv :=
  h.of_memInv h.mem

theorem State.Inv.setReply (h : s.Inv) (r : Reply) : (s.setReply r).Inv := h.of_memInv h.mem

theorem State.Inv.setSample (h : s.Inv) (v : Byte) : (s.setSample v).Inv := h.of_memInv h.mem

theorem State.Inv.setFlags (h : s.Inv) (nv wign : Bool) :
    (s.setStatus { s.status with nv := nv, wign := wign }).Inv := h.of_memInv h.mem

theorem State.Inv.setPmemByte (h : s.Inv) {n : Nat} (v : Byte) (hn : n < s.cfg.pmemBytes) :
    (s.setPmemByte n v).Inv :=
  h.of_memInv (MemInv.setPmemByte h.mem v hn)

theorem State.Inv.setKmemWord (h : s.Inv) {n : Nat} (v : Word) (hn : n < Config.kmemDepth) :
    (s.setKmemWord n v).Inv :=
  h.of_memInv (MemInv.setKmemWord h.mem v hn)

theorem State.Inv.setWinByte (h : s.Inv) {a b c : Nat} (v : Byte) (hw : winHas a b c = true) :
    (s.setWinByte a b c v).Inv :=
  h.of_memInv (MemInv.setWinByte h.mem v hw)

/-! ### Register writes and commands while idle -/

section
variable (h : s.Inv) (hb : s.status.busy = false)
include h hb

theorem State.Inv.acc_of_idle : s.acc = F32.zero := h.accFresh (.inl (h.idleIff.1 hb))

theorem State.Inv.setRegisters (ctrl : Ctrl) (width height : BitVec 16) (ksize : BitVec 8)
    (srcBase dstBase : BitVec 32) (kaddr : BitVec 14) :
    ({ s with ctrl := ctrl, width := width, height := height, ksize := ksize,
              srcBase := srcBase, dstBase := dstBase, kaddr := kaddr } : State).Inv :=
  .of_idle h.cfgRange hb ⟨h.errIff, h.errCodes⟩ (h.idleSeq hb) (h.acc_of_idle hb) { h.mem with }

theorem State.Inv.clearStatus : (clearStatus s).Inv :=
  .of_idle h.cfgRange rfl Status.zero_errOk (h.idleSeq hb) (h.acc_of_idle hb) { h.mem with }

theorem State.Inv.raiseError (e : Err) : (raiseError e s).Inv :=
  .of_idle h.cfgRange hb (Status.errOk_raised _ e)
    (h.idleSeq hb) (h.acc_of_idle hb) { h.mem with }

theorem State.Inv.kdataEffect (data : Word) : (kdataEffect data s).Inv := by
  unfold Machine.kdataEffect
  split
  next hn => exact (h.setKmemWord data hn).setRegisters hb _ _ _ _ _ _ _
  next => exact h.setRegisters hb _ _ _ _ _ _ _

end

theorem State.Inv.softReset (h : s.Inv) : (softReset s).Inv :=
  .of_idle h.cfgRange rfl Status.zero_errOk rfl rfl { h.mem with }

theorem State.Inv.hardReset (h : s.Inv) : (hardReset s).Inv :=
  .of_idle h.cfgRange rfl Status.zero_errOk rfl rfl (MemInv.hardReset h.mem)

/-- The first position of a run lies in the ranges of every accepted size. -/
theorem firstSeq_inRange {strat : Bool} {w h c k : Nat} (hw : 0 < w) (hh : 0 < h) (hc : 0 < c)
    (hk : 0 < k) : (firstSeq strat).InRange strat w h c k :=
  .of_onTap hh hw hc hk hk (onTap_ite (.inl rfl))

theorem State.chans_pos (s : State) : 0 < s.chans := by unfold State.chans; split <;> decide

theorem State.chans_le (s : State) : s.chans ≤ 3 := by unfold State.chans; split <;> decide

/-- Step 7 of `START` (R115). -/
theorem State.Inv.beginRun (h : s.Inv) (hst : s.status = Status.zero) (hc : startCheck s = none) :
    (beginRun s).Inv := by
  obtain ⟨hodd, -, hw, hh, -⟩ := startCheck_eq_none.1 hc
  have hseq : s.seqInRange (firstSeq s.ctrl.strat) :=
    firstSeq_inRange hw hh s.chans_pos (by omega)
  have hidle : (firstSeq s.ctrl.strat).phase ≠ .idle := (onTap_ite (.inl rfl)).ne_idle
  exact
    { h with
      busyClean := by simp [hst, Status.zero]
      idleIff := by simp [hidle]
      idleSeq := by simp
      run := fun _ => State.runInv_iff.2 ⟨hc, hseq⟩
      accFresh := fun _ => rfl
      accBinary32 := zero_isBinary32 false
      mem := { h.mem with } }

theorem State.Inv.startEffect (h : s.Inv) (hb : s.status.busy = false) : (startEffect s).Inv := by
  rcases startEffect_cases s with ⟨e, -, he⟩ | ⟨hc, he⟩ <;> rw [he]
  · exact (h.clearStatus hb).raiseError rfl e
  · exact (h.clearStatus hb).beginRun rfl hc

theorem State.Inv.commandEffect (h : s.Inv) (hb : s.status.busy = false) (w : Word) :
    (commandEffect w s).Inv := by
  rcases commandEffect_cases w s with ⟨-, he⟩ | ⟨-, he⟩ | ⟨-, he⟩ | ⟨-, he⟩ | ⟨-, he⟩ <;> rw [he]
  · exact h
  · exact h.startEffect hb
  · exact h.clearStatus hb
  · exact h.softReset
  · exact h.raiseError hb _

/-- Every register write and every command keeps the invariant while the block is idle. -/
theorem State.Inv.writeEffect (h : s.Inv) (hb : s.status.busy = false) {i : Instr}
    {effect : State → State} (he : writeEffect i = some effect) : (effect s).Inv := by
  cases i <;> cases he
  case nop => exact h
  case start => exact h.startEffect hb
  case clear => exact h.clearStatus hb
  case sreset => exact h.softReset
  case wrCmd w => exact h.commandEffect hb w
  case wrKdata data => exact h.kdataEffect hb data
  all_goals exact h.setRegisters hb _ _ _ _ _ _ _

theorem State.Inv.acceptWrite (h : s.Inv) {effect : State → State}
    (he : s.status.busy = false → (effect s).Inv) : (acceptWrite effect s).Inv := by
  rcases acceptWrite_cases effect s with ⟨-, ha⟩ | ⟨hb, ha⟩ <;> rw [ha]
  · exact h.setFlags s.status.nv true
  · exact he hb

/-! ### The engine's turn -/

/-- Moving a run to position `q` with `ACC` at `x`. -/
theorem State.Inv.advance (h : s.Inv) (hb : s.status.busy = true) {q : Seq} {x : F32}
    (hq : s.seqInRange q) (hidle : q.phase ≠ .idle) (hx : q.Fresh → x = F32.zero)
    (hx32 : x.isBinary32 = true) : ((s.setAcc x).setSeq q).Inv :=
  { h with
    idleIff := by simp [hb, hidle]
    idleSeq := by simp [hb]
    run := fun hb => State.runInv_iff.2 ⟨(h.run hb).checks, hq⟩
    accFresh := hx
    accBinary32 := hx32
    mem := { h.mem with } }

/-- The end of a run (R212). -/
theorem State.Inv.finishRun (h : s.Inv) :
    (((s.setAcc F32.zero).setSeq Seq.zero).setStatus
      { s.status with busy := false, done := true }).Inv :=
  .of_idle h.cfgRange rfl ⟨h.errIff, h.errCodes⟩ rfl rfl { h.mem with }

section
variable (h : s.Inv)
include h

theorem State.Inv.k_le (hb : s.status.busy = true) : s.k ≤ 101 :=
  (startCheck_eq_none.1 (h.run hb).checks).2.1

theorem State.Inv.seq_inRange (hb : s.status.busy = true) : s.seqInRange s.seq :=
  (h.checks_seq hb).2

/-- The advance of `MAC` and of `RED` with the new sum. -/
theorem State.Inv.afterTap (hb : s.status.busy = true) {again : Phase}
    (hagain : again = .pad ∨ again = .red) (htap : again.OnTap s.ctrl.strat) (x : Byte) (p : Word) :
    ((s.setAcc (macStep s.acc x p)).setSeq (afterTap s.k again s.seq)).Inv :=
  h.advance hb ((h.seq_inRange hb).afterTap (h.k_le hb) htap) (afterTap_ne_idle htap.ne_idle)
    (fun hf => absurd hf (not_fresh_afterTap hagain (h.k_le hb))) (macStep_isBinary32 _ _ _)

theorem State.Inv.execPad {t : State} (ht : execPad s = .next t) : t.Inv := by
  rcases execPad_next ht with rfl | ⟨hb, hp, -, rfl⟩
  · exact h
  · have hq : s.seqInRange (afterPad s.seq) := (h.seq_inRange hb).afterPad hp
    have hidle : (afterPad s.seq).phase ≠ .idle := by simp [afterPad]
    refine (h.setSample (s.pmemByte s.tapAddr)).advance hb (x := s.acc) hq hidle ?_ h.accBinary32
    rintro (hf | hf | ⟨-, ha, hb⟩)
    · cases hf
    · cases hf
    · exact h.accFresh (.inr (.inr ⟨by simp [hp], ha, hb⟩))

theorem State.Inv.execMac {t : State} (ht : execMac s = .next t) : t.Inv := by
  rcases execMac_next ht with rfl | ⟨hb, hp, -, rfl⟩
  · exact h
  · exact h.afterTap hb (.inl rfl) (.inl ⟨.inl rfl, (h.run hb).direct (.inr hp)⟩) _ _

theorem State.Inv.execRed {t : State} (ht : execRed s = .next t) : t.Inv := by
  rcases execRed_next ht with rfl | ⟨hb, hp, -, -, rfl⟩
  · exact h
  · exact h.afterTap hb (.inr rfl) (.inr ⟨.inr rfl, (h.run hb).window (.inr hp)⟩) _ _

theorem State.Inv.execFill {t : State} (ht : execFill s = .next t) : t.Inv := by
  rcases execFill_next ht with rfl | ⟨hb, hp, -, hw, rfl⟩
  · exact h
  · have hacc : s.acc = F32.zero := h.accFresh (.inr (.inl hp))
    have hq : s.seqInRange (afterFill s.chans s.k s.seq) :=
      (h.seq_inRange hb).afterFill s.chans_le (h.k_le hb) hp
    exact (h.setWinByte _ hw).advance hb (x := s.acc) hq (afterFill_ne_idle hp) (fun _ => hacc)
      h.accBinary32

/-- The last two parts of `OUT`: `ACC` back at +0, and the next sample or the end of the run. -/
theorem State.Inv.advanceOut (hb : s.status.busy = true) :
    (advanceOut (s.setAcc F32.zero)).Inv := by
  rcases advanceOut_cases (s.setAcc F32.zero) with ⟨q, hn, ha⟩ | ⟨-, ha⟩ <;> rw [ha]
  · obtain ⟨hq, hidle⟩ :=
      (h.seq_inRange hb).afterOut s.width.isLt s.height.isLt s.chans_le hn
    exact h.advance hb hq hidle (fun _ => rfl) (zero_isBinary32 false)
  · exact h.finishRun

theorem State.Inv.execOut {t : State} (ht : execOut s = .next t) : t.Inv := by
  rcases execOut_next ht with rfl | ⟨hb, -, ha, rfl⟩
  · exact h
  · have hstored := (h.setFlags (nvAfter s.acc s.status.nv) s.status.wign).setPmemByte (sat8 s.acc) ha
    exact hstored.advanceOut hb

theorem State.Inv.exec_phaseInstr {p : Phase} {t : State} (ht : exec (phaseInstr p) s = .next t) :
    t.Inv := by
  cases p with
  | idle => exact Host.Outcome.next.inj ht ▸ h
  | pad => exact h.execPad ht
  | mac => exact h.execMac ht
  | out => exact h.execOut ht
  | fill => exact h.execFill ht
  | red => exact h.execRed ht

theorem State.Inv.exec {i : Instr} {t : State} (ht : exec i s = .next t) : t.Inv := by
  rcases exec_cases i s with ⟨v, -, hi⟩ | ⟨effect, he, hi⟩ | ⟨p, rfl⟩ | ⟨addr, rfl⟩ | ⟨addr, data, rfl⟩
  · cases hi.symm.trans ht
    exact h.setReply _
  · cases hi.symm.trans ht
    exact h.acceptWrite fun hb => h.writeEffect hb he
  · exact h.exec_phaseInstr ht
  · rcases execPrd_cases addr s with ⟨-, hi⟩ | ⟨-, hi⟩ <;> cases hi.symm.trans ht
    exact h.setReply _
  · rcases execPwr_cases addr data s with ⟨ha, hi⟩ | ⟨-, hi⟩ <;> cases hi.symm.trans ht
    exact h.setPmemByte data ha

theorem State.Inv.runEvent {e : Event} {t : State} (ht : runEvent e s = .next t) : t.Inv := by
  rcases runEvent_next ht with ⟨-, rfl⟩ | ⟨-, i, -, -, hi⟩ | ⟨-, r, -, -, hr⟩
  · exact h.hardReset
  · exact h.exec hi
  · rcases runReject_next hr with rfl | rfl | ⟨w, rfl⟩
    · exact h.setReply _
    · exact h
    · exact h.acceptWrite fun hb => h.commandEffect hb w

end

/-- Settles O40: one lemma per kind of move; the engine's turn stays in the ranges of R214 and keeps
`ACC` a binary32 value. -/
theorem everyStepKeepsTheInvariant : Obligations.EveryStepKeepsTheInvariant := by
  intro s t h ht
  rcases step_cases s with ⟨-, hs⟩ | ⟨e, rest, -, hs⟩
  · exact h.runEvent (hs.symm.trans ht)
  · exact (h.setEvents rest).runEvent (hs.symm.trans ht)

/-! ### The reset state -/

/-- Settles O39: the reset state is idle, at rest, and lists nothing in any memory. -/
theorem resetSatisfiesTheInvariant : Obligations.ResetSatisfiesTheInvariant := by
  intro cfg es hcfg
  exact .of_idle hcfg rfl Status.zero_errOk rfl rfl ⟨rfl, rfl, rfl, rfl, rfl, rfl⟩

/-- Settles O1: the reset state lists nothing, so its memories read as the free values. -/
theorem resetStateHoldsResetValues : Obligations.ResetStateHoldsResetValues :=
  ⟨fun _ => rfl, fun _ _ _ => rfl, fun _ => rfl, rfl, rfl, rfl, rfl, rfl, rfl, rfl, rfl, rfl, rfl, rfl,
    rfl, rfl, rfl⟩

end Sys2Proof.Machine

/-! ## The decoder, packet by packet -/

namespace Sys2Proof.Machine

/-- Bit 4 of a header chooses the direction, the rest is the word index (R91). -/
theorem rxHeader_cases (header : BitVec 5) :
    ∃ widx : BitVec 4, header = 0#1 ++ widx ∨ header = 1#1 ++ widx := by
  revert header
  decide

theorem rxHeader_fields (we : BitVec 1) (widx : BitVec 4) :
    (we ++ widx).getLsbD 4 = we.getLsbD 0 ∧ (we ++ widx).extractLsb' 0 4 = widx := by
  revert we widx
  decide

theorem decode_read (widx : BitVec 4) (d : Word) :
    decode (.rx (0#1 ++ widx) d) = decodeRead widx := by
  obtain ⟨hwe, hwidx⟩ := rxHeader_fields 0#1 widx
  rw [decode, decodeRx, hwe, hwidx]
  rfl

theorem decode_write (widx : BitVec 4) (d : Word) :
    decode (.rx (1#1 ++ widx) d) = decodeWrite widx d := by
  obtain ⟨hwe, hwidx⟩ := rxHeader_fields 1#1 widx
  rw [decode, decodeRx, hwe, hwidx]
  rfl

theorem decodeRead_eq_error {widx : BitVec 4} {r : Reject} :
    decodeRead widx = .error r ↔ 12 ≤ widx.toNat ∧ r = .unmappedRead widx := by
  unfold decodeRead
  split
  case h_13 =>
    simp only [imp_false] at *
    have : 12 ≤ widx.toNat := by omega
    simp [this, eq_comm]
  all_goals simp [*]

theorem decodeWrite_eq_error {widx : BitVec 4} {d : Word} {r : Reject} :
    decodeWrite widx d = .error r ↔
      widx.toNat ∈ [0, 1, 3, 12, 13, 14, 15] ∧ r = .ignoredWrite widx := by
  unfold decodeWrite
  split
  case h_10 =>
    simp only [imp_false] at *
    have : widx.toNat ∈ [0, 1, 3, 12, 13, 14, 15] := by
      simp only [List.mem_cons, List.not_mem_nil]
      omega
    simp only [this, Except.error.injEq, true_and, eq_comm]
  all_goals simp [*]

theorem decodeCmd_eq_error {w : Word} {r : Reject} :
    decodeCmd w = .error r ↔ 3 < w.toNat ∧ r = .illegalCommand w := by
  unfold decodeCmd
  split
  case h_5 =>
    simp only [imp_false] at *
    have : 3 < w.toNat := by omega
    simp [this, eq_comm]
  all_goals simp [*]

theorem decodeUop_eq_error {code : BitVec 3} {r : Reject} :
    decodeUop code = .error r ↔ 6 ≤ code.toNat ∧ r = .unusedPhase code := by
  unfold decodeUop
  split
  case h_7 =>
    simp only [imp_false] at *
    have : 6 ≤ code.toNat := by omega
    simp [this, eq_comm]
  all_goals simp [*]

theorem decodePx_ne_error (kind : BitVec 1) (addr : BitVec 32) (data : Byte) (r : Reject) :
    decodePx kind addr data ≠ .error r := by
  unfold decodePx
  split <;> simp

/-- A header is a read or a write of one word index, not both. -/
theorem rxHeader_inj {we we' : BitVec 1} {widx widx' : BitVec 4} :
    we ++ widx = we' ++ widx' ↔ we = we' ∧ widx = widx' := by
  refine ⟨fun h => ?_, by rintro ⟨rfl, rfl⟩; rfl⟩
  obtain ⟨hwe, hwidx⟩ := rxHeader_fields we widx
  obtain ⟨hwe', hwidx'⟩ := rxHeader_fields we' widx'
  have hbit : we.getLsbD 0 = we'.getLsbD 0 := by rw [← hwe, h, hwe']
  refine ⟨BitVec.eq_of_getLsbD_eq fun i hi => ?_, by rw [← hwidx, h, hwidx']⟩
  rwa [Nat.lt_one_iff.1 hi]

/-- Settles O27: each format's decoder has its own rejections. -/
theorem decoderRejectsExactlyTheReserved : Obligations.DecoderRejectsExactlyTheReserved := by
  intro p r
  cases p with
  | rx header d =>
    obtain ⟨widx, rfl | rfl⟩ := rxHeader_cases header
    · rw [decode_read, decodeRead_eq_error]
      simp [rxHeader_inj]
    · rw [decode_write, decodeWrite_eq_error]
      simp [rxHeader_inj]
  | px kind addr data => simp [decode, decodePx_ne_error]
  | cmdw w => simp [decode, decodeCmd_eq_error]
  | uop code => simp [decode, decodeUop_eq_error]

end Sys2Proof.Machine

/-! ## The next move, and what it does -/

namespace Sys2Proof.Machine

/-- The event the next step performs: the first one listed, else the engine's turn. -/
def State.nextEvent (s : State) : Event := s.events.headD .engine

theorem step_eq_runEvent (s : State) :
    step s = runEvent s.nextEvent (s.setEvents s.events.tail) := by
  rcases step_cases s with ⟨he, hs⟩ | ⟨e, rest, he, hs⟩
  · have hset : s.setEvents s.events.tail = s := by rw [he]; exact congrArg s.setEvents he.symm
    rw [hs, hset, State.nextEvent, he]
    rfl
  · rw [hs, State.nextEvent, he]
    rfl

theorem State.engineNext_iff {s : State} : s.engineNext ↔ s.nextEvent = .engine := by
  unfold State.engineNext State.nextEvent
  cases s.events <;> simp

theorem State.events_of_nextEvent {s : State} {e : Event} (h : s.nextEvent = e)
    (he : e ≠ .engine) : s.events = e :: s.events.tail := by
  subst h
  unfold State.nextEvent at he ⊢
  cases hs : s.events <;> simp_all

/-! ### The engine's turn -/

/-- The engine's turn is nothing while idle, and the micro-operation `PHASE` names while busy. -/
theorem engineTurn_next {s t : State} (h : runEvent .engine s = .next t) :
    t = s ∨ (s.status.busy = true ∧ exec (phaseInstr s.seq.phase) s = .next t) := by
  cases hb : s.status.busy with
  | false => exact .inl (Host.Outcome.next.inj ((runEvent_engine_idle hb).symm.trans h)).symm
  | true => exact .inr ⟨rfl, (runEvent_engine_busy hb).symm.trans h⟩

/-- The frame of the engine: a micro-operation may write `BUSY`, `DONE`, `NV`, the hidden state and
`PMEM`, and nothing else. -/
def State.EngineFrame (s t : State) : Prop :=
  ∃ busy done nv seq acc sample win pmem, t = { s with
    status := { s.status with busy := busy, done := done, nv := nv }
    seq := seq, acc := acc, sample := sample, win := win, pmem := pmem }

theorem State.EngineFrame.refl (s : State) : s.EngineFrame s := ⟨_, _, _, _, _, _, _, _, rfl⟩

theorem advanceOut_frame (s : State) : ∃ busy done seq, advanceOut s =
    { s with status := { s.status with busy := busy, done := done }, seq := seq } := by
  rcases advanceOut_cases s with ⟨q, -, ha⟩ | ⟨-, ha⟩
  · exact ⟨_, _, _, ha⟩
  · exact ⟨_, _, _, ha⟩

theorem exec_phaseInstr_frame {p : Phase} {s t : State} (h : exec (phaseInstr p) s = .next t) :
    s.EngineFrame t := by
  cases p with
  | idle => exact Host.Outcome.next.inj h ▸ .refl s
  | pad =>
    rcases execPad_next h with rfl | ⟨-, -, -, rfl⟩ <;> exact ⟨_, _, _, _, _, _, _, _, rfl⟩
  | mac =>
    rcases execMac_next h with rfl | ⟨-, -, -, rfl⟩ <;> exact ⟨_, _, _, _, _, _, _, _, rfl⟩
  | out =>
    rcases execOut_next h with rfl | ⟨-, -, -, ht⟩
    · exact .refl _
    · obtain ⟨_, _, _, ha⟩ := advanceOut_frame _
      exact ⟨_, _, _, _, _, _, _, _, ht.trans ha⟩
  | fill =>
    rcases execFill_next h with rfl | ⟨-, -, -, -, rfl⟩ <;> exact ⟨_, _, _, _, _, _, _, _, rfl⟩
  | red =>
    rcases execRed_next h with rfl | ⟨-, -, -, -, rfl⟩ <;> exact ⟨_, _, _, _, _, _, _, _, rfl⟩

theorem engineTurn_frame {s t : State} (h : runEvent .engine s = .next t) : s.EngineFrame t := by
  rcases engineTurn_next h with rfl | ⟨-, h⟩
  · exact .refl _
  · exact exec_phaseInstr_frame h

/-- Settles O44: none of these fields is among the ones a micro-operation may write. -/
theorem engineTurnLeavesRegistersAndWeights : Obligations.EngineTurnLeavesRegistersAndWeights := by
  intro s t hn h
  rw [step_eq_runEvent, State.engineNext_iff.1 hn] at h
  obtain ⟨busy, done, nv, seq, acc, sample, win, pmem, rfl⟩ := engineTurn_frame h
  exact ⟨rfl, rfl, rfl, rfl, rfl, rfl, rfl, rfl, rfl, rfl, rfl, rfl, rfl, rfl⟩

end Sys2Proof.Machine

/-! ## The instruction a packet decodes to -/

namespace Sys2Proof.Machine

theorem eq_ofNat_of_toNat_eq {n m : Nat} {x : BitVec n} (h : x.toNat = m) : x = BitVec.ofNat n m := by
  rw [← h, BitVec.ofNat_toNat, BitVec.setWidth_eq]

theorem encode_of_decodeRead {widx : BitVec 4} {i : Instr} (h : decodeRead widx = .ok i) :
    encode i = .rx (0#1 ++ widx) 0#32 := by
  unfold decodeRead at h
  split at h <;> cases h
  all_goals
    rename_i hidx
    rw [eq_ofNat_of_toNat_eq hidx]
    rfl

theorem encode_of_decodeWrite {widx : BitVec 4} {d : Word} {i : Instr}
    (h : decodeWrite widx d = .ok i) : encode i = .rx (1#1 ++ widx) d := by
  unfold decodeWrite at h
  split at h <;> cases h
  all_goals
    rename_i hidx
    rw [eq_ofNat_of_toNat_eq hidx]
    rfl

theorem encode_of_decodeCmd {w : Word} {i : Instr} (h : decodeCmd w = .ok i) :
    encode i = .cmdw w := by
  unfold decodeCmd at h
  split at h <;> cases h
  all_goals
    rename_i hw
    rw [eq_ofNat_of_toNat_eq hw]
    rfl

theorem encode_of_decodeUop {code : BitVec 3} {i : Instr} (h : decodeUop code = .ok i) :
    encode i = .uop code := by
  unfold decodeUop at h
  split at h <;> cases h
  all_goals
    rename_i hc
    rw [eq_ofNat_of_toNat_eq hc]
    rfl

/-- A `PX` packet is the encoding of its instruction, but for the byte of a read. -/
theorem encode_of_decodePx {kind : BitVec 1} {addr : BitVec 32} {data : Byte} {i : Instr}
    (h : decodePx kind addr data = .ok i) :
    encode i = .px kind addr data ∨ kind = 0#1 ∧ encode i = .px 0#1 addr 0#8 := by
  obtain rfl | rfl : kind = 0#1 ∨ kind = 1#1 := BitVec.eq_zero_or_eq_one kind
  · cases h
    exact .inr ⟨rfl, rfl⟩
  · cases h
    exact .inl rfl

/-- A packet that decodes is its instruction's encoding, but for the data word of a read and the byte
of a `HostPRead`. -/
theorem encode_of_decode {p : Packet} {i : Instr} (h : decode p = .ok i) :
    encode i = p ∨
    (∃ (widx : BitVec 4) (d : Word), p = .rx (0#1 ++ widx) d ∧ encode i = .rx (0#1 ++ widx) 0#32) ∨
    (∃ addr data, p = .px 0#1 addr data ∧ encode i = .px 0#1 addr 0#8) := by
  cases p with
  | rx header d =>
    obtain ⟨widx, rfl | rfl⟩ := rxHeader_cases header
    · exact .inr (.inl ⟨widx, d, rfl, encode_of_decodeRead (decode_read widx d ▸ h)⟩)
    · exact .inl (encode_of_decodeWrite (decode_write widx d ▸ h))
  | px kind addr data =>
    rcases encode_of_decodePx h with hi | ⟨rfl, hi⟩
    · exact .inl hi
    · exact .inr (.inr ⟨addr, data, rfl, hi⟩)
  | cmdw w => exact .inl (encode_of_decodeCmd h)
  | uop code => exact .inl (encode_of_decodeUop h)

/-- Register writes and commands are encoded as `CMDW` words or as `RX` packets with `we` = 1. -/
theorem encode_of_writeEffect {i : Instr} {effect : State → State}
    (h : writeEffect i = some effect) :
    (∃ (widx : BitVec 4) (d : Word), encode i = .rx (1#1 ++ widx) d) ∨ ∃ w, encode i = .cmdw w := by
  cases i with
  | nop | start | clear | sreset => exact .inr ⟨_, rfl⟩
  | wrCtrl d => exact .inl ⟨2#4, d, rfl⟩
  | wrCmd d => exact .inl ⟨4#4, d, rfl⟩
  | wrWidth d => exact .inl ⟨5#4, d, rfl⟩
  | wrHeight d => exact .inl ⟨6#4, d, rfl⟩
  | wrKsize d => exact .inl ⟨7#4, d, rfl⟩
  | wrSrcBase d => exact .inl ⟨8#4, d, rfl⟩
  | wrDstBase d => exact .inl ⟨9#4, d, rfl⟩
  | wrKaddr d => exact .inl ⟨10#4, d, rfl⟩
  | wrKdata d => exact .inl ⟨11#4, d, rfl⟩
  | _ => cases h

/-- A register write or command has one encoding. -/
theorem encode_of_decode_write {p : Packet} {i : Instr} {effect : State → State}
    (hi : writeEffect i = some effect) (h : decode p = .ok i) : encode i = p := by
  rcases encode_of_decode h with hp | ⟨widx, d, -, hp⟩ | ⟨addr, data, -, hp⟩
  · exact hp
  all_goals
    rcases encode_of_writeEffect hi with ⟨widx', d', hw⟩ | ⟨w, hw⟩ <;> rw [hp] at hw <;>
    simp [rxHeader_inj] at hw

theorem encode_phaseInstr (q : Phase) : encode (phaseInstr q) = .uop (phaseCode q) := by
  cases q <;> rfl

theorem encode_of_decode_phaseInstr {p : Packet} {q : Phase} (h : decode p = .ok (phaseInstr q)) :
    p = .uop (phaseCode q) := by
  rcases encode_of_decode h with hp | ⟨widx, d, -, hp⟩ | ⟨addr, data, -, hp⟩ <;>
    rw [encode_phaseInstr] at hp
  · exact hp.symm
  · cases hp
  · cases hp

/-! ## What moves `BUSY`, `DONE`, `ERR` and `CTRL` -/

theorem eventPacket_eq_rx {e : Event} {s : State} {header : BitVec 5} {d : Word}
    (h : eventPacket e s = some (.rx header d)) : e = .rx header d := by
  cases e <;> simp_all [eventPacket, enginePacket]

theorem eventPacket_eq_cmdw {e : Event} {s : State} {w : Word}
    (h : eventPacket e s = some (.cmdw w)) : e = .cmdw w := by
  cases e <;> simp_all [eventPacket, enginePacket]

theorem eventPacket_eq_uop {e : Event} {s : State} {code : BitVec 3}
    (h : eventPacket e s = some (.uop code)) : e = .engine := by
  cases e <;> simp_all [eventPacket]

/-- A word rejected as a command was written to `CMD`. -/
theorem eq_cmdw_of_illegalCommand {p : Packet} {w : Word}
    (h : decode p = .error (.illegalCommand w)) : p = .cmdw w := by
  rcases (decoderRejectsExactlyTheReserved p _).1 h with
    ⟨_, _, _, _, hr⟩ | ⟨_, _, _, _, hr⟩ | ⟨_, rfl, _, hr⟩ | ⟨_, _, _, hr⟩ <;> cases hr
  rfl

/-- `e` is the host's write of `w` to `CMD`, in either form (log entry 11). -/
def writesCmd (e : Event) (w : Word) : Prop := e = .rx 0b10100#5 w ∨ e = .cmdw w

/-- What `irq` and the claims about `BUSY` are made of. -/
def State.flags (s : State) : Bool × Bool × Bool × Ctrl :=
  (s.status.busy, s.status.done, s.status.err, s.ctrl)

theorem busy_of_flags {s t : State} (h : t.flags = s.flags) : t.status.busy = s.status.busy :=
  congrArg Prod.fst h

theorem irq_of_flags {s t : State} (h : t.flags = s.flags) : t.irq = s.irq :=
  congrArg (fun f : Bool × Bool × Bool × Ctrl => f.2.2.2.ie && (f.2.1 || f.2.2.1)) h

/-- A register write is a write to `CMD`, a write of `CTRL`, or moves no flag and not `CTRL`. -/
theorem writeEffect_cases {i : Instr} {effect : State → State} (h : writeEffect i = some effect) :
    (∃ w, (encode i = .rx 0b10100#5 w ∨ encode i = .cmdw w) ∧ effect = commandEffect w) ∨
    (∃ d, encode i = .rx 0b10010#5 d ∧ effect = fun s => { s with ctrl := ctrlOfWord d }) ∨
    (∀ s, (effect s).flags = s.flags) := by
  cases i <;> cases h
  case nop | start | clear | sreset => exact .inl ⟨_, .inr rfl, rfl⟩
  case wrCmd w => exact .inl ⟨w, .inl rfl, rfl⟩
  case wrCtrl d => exact .inr (.inl ⟨d, rfl, rfl⟩)
  case wrKdata d =>
    refine .inr (.inr fun s => ?_)
    unfold kdataEffect
    split <;> rfl
  all_goals exact .inr (.inr fun _ => rfl)

/-- A register write is dropped without moving a flag but `WIGN`, or it has its effect while idle. -/
theorem acceptWrite_flags (effect : State → State) (s : State) :
    (acceptWrite effect s).flags = s.flags ∨
      s.status.busy = false ∧ acceptWrite effect s = effect s := by
  rcases acceptWrite_cases effect s with ⟨-, ha⟩ | hidle
  · exact .inl (by rw [ha]; rfl)
  · exact .inr hidle

/-- The `OUT` of the last sample ends the run (R212). -/
def State.Finishes (s t : State) : Prop :=
  s.status.busy = true ∧ s.seq.phase = .out ∧
    afterOut s.ctrl.strat s.w s.h s.chans s.seq = none ∧
    t.status.busy = false ∧ t.status.done = true

theorem execOut_flags {s t : State} (h : execOut s = .next t) :
    t.flags = s.flags ∨ s.Finishes t := by
  rcases execOut_next h with rfl | ⟨hb, hp, -, rfl⟩
  · exact .inl rfl
  · rcases advanceOut_cases _ with ⟨q, -, ha⟩ | ⟨hn, ha⟩ <;> rw [ha]
    · exact .inl rfl
    · exact .inr ⟨hb, hp, hn, rfl, rfl⟩

theorem exec_phaseInstr_flags {p : Phase} {s t : State} (h : exec (phaseInstr p) s = .next t) :
    t.flags = s.flags ∨ s.Finishes t := by
  cases p with
  | idle => exact .inl (Host.Outcome.next.inj h ▸ rfl)
  | pad => rcases execPad_next h with rfl | ⟨-, -, -, rfl⟩ <;> exact .inl rfl
  | mac => rcases execMac_next h with rfl | ⟨-, -, -, rfl⟩ <;> exact .inl rfl
  | out => exact execOut_flags h
  | fill => rcases execFill_next h with rfl | ⟨-, -, -, -, rfl⟩ <;> exact .inl rfl
  | red => rcases execRed_next h with rfl | ⟨-, -, -, -, rfl⟩ <;> exact .inl rfl

/-- The moves that can change `BUSY`, `DONE`, `ERR` or `CTRL`. -/
inductive FlagMove (e : Event) (s t : State) : Prop where
  | same (h : t.flags = s.flags)
  | rst (he : e = .rst) (ht : t = hardReset s)
  | finish (he : e = .engine) (h : s.Finishes t)
  | cmd (w : Word) (he : writesCmd e w) (hb : s.status.busy = false) (ht : t = commandEffect w s)
  | ctrl (d : Word) (he : e = .rx 0b10010#5 d) (hb : s.status.busy = false)
      (ht : t.status = s.status)

theorem flagMove_of_write {p : Packet} {i : Instr} {effect : State → State} {e : Event} {s : State}
    (hp : eventPacket e s = some p) (hd : decode p = .ok i) (hi : writeEffect i = some effect) :
    FlagMove e s (acceptWrite effect s) := by
  rw [← encode_of_decode_write hi hd] at hp
  rcases acceptWrite_flags effect s with hs | ⟨hb, ha⟩
  · exact .same hs
  rw [ha]
  rcases writeEffect_cases hi with ⟨w, hw, rfl⟩ | ⟨d, hw, rfl⟩ | hs
  · have he : writesCmd e w :=
      hw.imp (fun hw => eventPacket_eq_rx (hw ▸ hp)) (fun hw => eventPacket_eq_cmdw (hw ▸ hp))
    exact .cmd w he hb rfl
  · exact .ctrl d (eventPacket_eq_rx (hw ▸ hp)) hb rfl
  · exact .same (hs s)

theorem flagMove_of_exec {p : Packet} {i : Instr} {e : Event} {s t : State}
    (hp : eventPacket e s = some p) (hd : decode p = .ok i) (h : exec i s = .next t) :
    FlagMove e s t := by
  rcases exec_cases i s with ⟨v, -, hi⟩ | ⟨effect, he, hi⟩ | ⟨q, rfl⟩ | ⟨addr, rfl⟩ | ⟨addr, data, rfl⟩
  · cases hi.symm.trans h
    exact .same rfl
  · cases hi.symm.trans h
    exact flagMove_of_write hp hd he
  · rcases exec_phaseInstr_flags h with hs | hf
    · exact .same hs
    · exact .finish (eventPacket_eq_uop (encode_of_decode_phaseInstr hd ▸ hp)) hf
  · rcases execPrd_cases addr s with ⟨-, hi⟩ | ⟨-, hi⟩ <;> cases hi.symm.trans h
    exact .same rfl
  · rcases execPwr_cases addr data s with ⟨-, hi⟩ | ⟨-, hi⟩ <;> cases hi.symm.trans h
    exact .same rfl

theorem flagMove_of_reject {p : Packet} {r : Reject} {e : Event} {s t : State}
    (hp : eventPacket e s = some p) (hd : decode p = .error r) (h : runReject r s = .next t) :
    FlagMove e s t := by
  cases r with
  | unmappedRead widx => exact .same (Host.Outcome.next.inj h ▸ rfl)
  | ignoredWrite widx => exact .same (Host.Outcome.next.inj h ▸ rfl)
  | unusedPhase code => cases h
  | illegalCommand w =>
    cases h
    rcases acceptWrite_flags (commandEffect w) s with hs | ⟨hb, ha⟩
    · exact .same hs
    · exact .cmd w (.inr (eventPacket_eq_cmdw (eq_cmdw_of_illegalCommand hd ▸ hp))) hb ha

theorem flagMove_of_runEvent {e : Event} {s t : State} (h : runEvent e s = .next t) :
    FlagMove e s t := by
  rcases runEvent_next h with ⟨he, ht⟩ | ⟨p, i, hp, hd, hi⟩ | ⟨p, r, hp, hd, hr⟩
  · exact .rst he ht
  · exact flagMove_of_exec hp hd hi
  · exact flagMove_of_reject hp hd hr

/-- Of a whole step: the next event, and the state with that event taken off. -/
theorem flagMove_of_step {s t : State} (h : step s = .next t) :
    FlagMove s.nextEvent (s.setEvents s.events.tail) t :=
  flagMove_of_runEvent (step_eq_runEvent s ▸ h)

theorem events_of_writesCmd {s : State} {w : Word} (h : writesCmd s.nextEvent w) :
    ∃ rest, s.events = .rx 0b10100#5 w :: rest ∨ s.events = .cmdw w :: rest :=
  ⟨s.events.tail, h.imp (fun he => State.events_of_nextEvent he (by simp))
    (fun he => State.events_of_nextEvent he (by simp))⟩

/-- Of the commands only an accepted `START` whose checks pass raises `BUSY`. -/
theorem commandEffect_busy {w : Word} {s : State} (hb : s.status.busy = false)
    (h : (commandEffect w s).status.busy = true) : w = 1#32 ∧ startCheck s = none := by
  rcases commandEffect_cases w s with ⟨-, hc⟩ | ⟨hw, hc⟩ | ⟨-, hc⟩ | ⟨-, hc⟩ | ⟨-, hc⟩ <;>
    rw [hc] at h
  · simp [hb] at h
  · rcases startEffect_cases s with ⟨e, -, hs⟩ | ⟨hs, -⟩
    · simp [hs, Status.zero] at h
    · exact ⟨hw, hs⟩
  · simp [Status.zero] at h
  · simp [Status.zero] at h
  · simp [hb] at h

/-- Where the run ends the position is the last one: it stands in the ranges of R214. -/
theorem State.Inv.lastSample {s : State} (h : s.Inv) (hb : s.status.busy = true)
    (hn : afterOut s.ctrl.strat s.w s.h s.chans s.seq = none) : s.lastSample := by
  obtain ⟨hch, hi, hj⟩ := afterOut_eq_none.1 hn
  obtain ⟨hj', hi', hch', -⟩ := h.seq_inRange hb
  exact ⟨by omega, by omega, by omega⟩

theorem step_raises_busy {s t : State} (h : step s = .next t) (hb : s.status.busy = false)
    (ht : t.status.busy = true) : startCheck s = none ∧ writesCmd s.nextEvent 1#32 := by
  rcases flagMove_of_step h with hs | ⟨-, rfl⟩ | ⟨-, hb', -⟩ | ⟨w, he, -, rfl⟩ | ⟨d, -, -, hs⟩
  · exact absurd (hb.symm.trans ((busy_of_flags hs).symm.trans ht)) (by simp)
  · simp [Status.zero] at ht
  · exact absurd (hb.symm.trans hb') (by simp)
  · obtain ⟨rfl, hc⟩ := commandEffect_busy (s := s.setEvents s.events.tail) hb ht
    exact ⟨hc, he⟩
  · exact absurd (hb.symm.trans ((congrArg Status.busy hs).symm.trans ht)) (by simp)

theorem step_lowers_busy {s t : State} (h : step s = .next t) (hb : s.status.busy = true)
    (ht : t.status.busy = false) :
    (s.nextEvent = .engine ∧ s.seq.phase = .out ∧
      afterOut s.ctrl.strat s.w s.h s.chans s.seq = none ∧ t.status.done = true) ∨
    (s.nextEvent = .rst ∧ t.status.done = false) := by
  rcases flagMove_of_step h with hs | ⟨he, rfl⟩ | ⟨he, -, hp, hn, -, hd⟩ | ⟨w, -, hb', -⟩ |
    ⟨d, -, hb', -⟩
  · exact absurd (hb.symm.trans ((busy_of_flags hs).symm.trans ht)) (by simp)
  · exact .inr ⟨he, rfl⟩
  · exact .inl ⟨he, hp, hn, hd⟩
  · exact absurd (hb.symm.trans hb') (by simp)
  · exact absurd (hb.symm.trans hb') (by simp)

/-- Settles O48: of the moves that change `BUSY` one raises it and two lower it. -/
theorem busyRisesByStartAndFallsByFinishOrReset :
    Obligations.BusyRisesByStartAndFallsByFinishOrReset := by
  intro s t hinv h
  refine ⟨fun hb ht => ?_, fun hb ht => ?_⟩
  · obtain ⟨hc, he⟩ := step_raises_busy h hb ht
    exact ⟨hc, events_of_writesCmd he⟩
  · rcases step_lowers_busy h hb ht with ⟨he, hp, hn, hd⟩ | ⟨he, hd⟩
    · exact .inl ⟨State.engineNext_iff.2 he, hp, hinv.lastSample hb hn, hd⟩
    · exact .inr ⟨⟨_, State.events_of_nextEvent he (by simp)⟩, hd⟩

/-- Settles O49: `irq` is made of `DONE`, `ERR` and `CTRL`, and so rises only by a move that changes one
of them. -/
theorem irqRisesOnlyForItsCauses : Obligations.IrqRisesOnlyForItsCauses := by
  refine ⟨fun s => by simp [State.irq], fun s t h hs ht => ?_⟩
  rcases flagMove_of_step h with hf | ⟨-, rfl⟩ | ⟨he, hb, hp, -, -, htd⟩ | ⟨w, he, hb, -⟩ |
    ⟨d, he, hb, -⟩
  · have hsame : t.irq = s.irq := irq_of_flags hf
    simp [hsame, hs] at ht
  · cases ht
  · exact .inl ⟨State.engineNext_iff.2 he, hb, hp, htd⟩
  · exact .inr (.inl ⟨hb, w, events_of_writesCmd he⟩)
  · exact .inr (.inr ⟨hb, d, _, State.events_of_nextEvent he (by simp)⟩)

end Sys2Proof.Machine

/-! ## Canonical memories -/

namespace Sys2Proof.Machine

section
variable {w : Nat} {dflt : Nat → BitVec w} {l : List (Nat × BitVec w)}

/-- The order of a canonical memory's entries, which `Cells.wf` asks for: rising by index. -/
def Cells.Before (c d : Nat × BitVec w) : Prop := c.1 < d.1

theorem Cells.pairwise_before_of_wf (hl : Cells.wf dflt l = true) : l.Pairwise Cells.Before := by
  induction l with
  | nil => exact .nil
  | cons c rest ih =>
    obtain ⟨hlt, -, hrest⟩ := (Cells.wf_cons dflt).1 hl
    exact .cons (by simpa [Cells.Before] using hlt) (ih hrest)

/-- What a canonical memory lists is exactly what reads otherwise than unlisted. -/
theorem Cells.mem_iff_of_wf (hl : Cells.wf dflt l = true) (n : Nat) (v : BitVec w) :
    (n, v) ∈ l ↔ Cells.read dflt l n = v ∧ v ≠ dflt n := by
  induction l with
  | nil => exact ⟨(absurd · List.not_mem_nil), fun ⟨hv, hne⟩ => absurd hv.symm hne⟩
  | cons c rest ih =>
    obtain ⟨i, u⟩ := c
    obtain ⟨hlt, hne, hrest⟩ := (Cells.wf_cons dflt).1 hl
    by_cases hn : n = i
    · subst hn
      have hnot : (n, v) ∉ rest := fun hmem => by simpa using List.all_eq_true.1 hlt _ hmem
      simp only [List.mem_cons, hnot, or_false, Cells.read, if_true]
      constructor
      · rintro ⟨⟩
        exact ⟨rfl, hne⟩
      · rintro ⟨rfl, -⟩
        rfl
    · simp [Cells.read, hn, ih hrest]

theorem Cells.eq_of_read_eq {m : List (Nat × BitVec w)} (hl : Cells.wf dflt l = true)
    (hm : Cells.wf dflt m = true) (h : ∀ n, Cells.read dflt l n = Cells.read dflt m n) : l = m := by
  have : Std.Asymm (Cells.Before (w := w)) := ⟨fun _ _ => Nat.lt_asymm⟩
  refine (Cells.pairwise_before_of_wf hl).eq_of_mem_iff (Cells.pairwise_before_of_wf hm) ?_
  rintro ⟨n, v⟩
  rw [Cells.mem_iff_of_wf hl, Cells.mem_iff_of_wf hm, h n]

end

/-- Settles O37: the reads of a canonical memory determine its entries, and their order is the indexes'. -/
theorem canonicalMemoriesAreEqualWhenTheyReadAlike :
    Obligations.CanonicalMemoriesAreEqualWhenTheyReadAlike :=
  fun _ _ h₁ h₂ h => Cells.eq_of_read_eq h₁ h₂ h

end Sys2Proof.Machine

/-! ## The engine's addresses -/

namespace Sys2Proof.Machine

/-- A clamped coordinate lies in the image (R142). -/
theorem clampCoord_lt (t : Int) {size : Nat} (h : 0 < size) : clampCoord t size < size := by
  simp only [clampCoord, clamp]
  omega

/-- The address of a sample of the image lies in the buffer (R66, R67). -/
theorem State.addr_mem_buffer (s : State) (base : Nat) {x y c : Nat} (hx : x < s.w) (hy : y < s.h)
    (hc : c < s.chans) : base ≤ s.addr base x y c ∧ s.addr base x y c < base + s.bufBytes := by
  have hpixel : x + s.w * y < s.w * s.h := Nat.add_mul_lt_mul_of_lt_of_lt hx hy
  have hsample : c + s.chans * (x + s.w * y) < s.chans * (s.w * s.h) :=
    Nat.add_mul_lt_mul_of_lt_of_lt hc hpixel
  have haddr : s.addr base x y c = base + (c + s.chans * (x + s.w * y)) := by
    unfold State.addr
    ring
  have hbytes : s.bufBytes = s.chans * (s.w * s.h) := by
    unfold State.bufBytes
    ring
  rw [haddr, hbytes]
  exact ⟨Nat.le_add_right _ _, Nat.add_lt_add_left hsample base⟩

section
variable {s : State} (h : s.Inv) (hb : s.status.busy = true)
include h hb

theorem State.Inv.tapAddr_inSource : s.inSource s.tapAddr := by
  obtain ⟨-, -, hw, hh, -⟩ := startCheck_eq_none.1 (h.run hb).checks
  exact s.addr_mem_buffer s.src (clampCoord_lt _ hw) (clampCoord_lt _ hh) (h.run hb).chRange

theorem State.Inv.outAddr_inDest : s.inDest s.outAddr :=
  s.addr_mem_buffer s.dst (h.run hb).iRange (h.run hb).jRange (h.run hb).chRange

/-- During a run the two regions share no byte (R249). -/
theorem State.Inv.not_inDest_of_inSource {x : Nat} (hx : s.inSource x) : ¬ s.inDest x := by
  obtain ⟨-, -, -, -, -, -, -, hdisjoint⟩ := startCheck_eq_none.1 (h.run hb).checks
  rintro ⟨hdst, hdstEnd⟩
  obtain ⟨hsrc, hsrcEnd⟩ := hx
  omega

end

/-- The upper end of the range of R6: every byte of `PMEM` has a 32-bit address. -/
theorem pmemBytes_le_of_wellFormed {cfg : Config} (h : cfg.wellFormed = true) :
    cfg.pmemBytes ≤ 2 ^ 32 := by
  simp only [Config.wellFormed, Bool.and_eq_true, decide_eq_true_eq] at h
  exact h.2

/-- Settles O42: the coordinates of a tap are clamped into the image, those of an output lie in the
ranges of R214, and the checks of `START` put both regions inside `PMEM`. -/
theorem engineAddressesStayInTheirRegions : Obligations.EngineAddressesStayInTheirRegions := by
  intro s h hb
  obtain ⟨-, -, -, -, -, hsrc, hdst, -⟩ := startCheck_eq_none.1 (h.run hb).checks
  obtain ⟨htap, htapEnd⟩ := h.tapAddr_inSource hb
  obtain ⟨hout, houtEnd⟩ := h.outAddr_inDest hb
  exact ⟨htap, htapEnd, hsrc, hout, houtEnd, hdst, pmemBytes_le_of_wellFormed h.cfgRange⟩

/-! ### What the engine writes to the pixel memory -/

theorem State.pmemByte_congr {s t : State} (h : t.pmem = s.pmem) (x : Nat) :
    t.pmemByte x = s.pmemByte x := by
  rw [State.pmemByte, State.pmemByte, h]

@[simp] theorem advanceOut_pmem (s : State) : (advanceOut s).pmem = s.pmem := by
  rcases advanceOut_cases s with ⟨q, -, h⟩ | ⟨-, h⟩ <;> simp [h]

/-- Of the micro-operations only `OUT` writes `PMEM`, and it stores one sample (R189). -/
theorem exec_phaseInstr_pmem {p : Phase} {s t : State} (h : exec (phaseInstr p) s = .next t) :
    t.pmem = s.pmem ∨ (s.status.busy = true ∧ s.seq.phase = .out ∧
      t.pmem = (s.setPmemByte s.outAddr (sat8 s.acc)).pmem) := by
  cases p with
  | idle => exact .inl (Host.Outcome.next.inj h ▸ rfl)
  | pad => rcases execPad_next h with rfl | ⟨-, -, -, rfl⟩ <;> exact .inl rfl
  | mac => rcases execMac_next h with rfl | ⟨-, -, -, rfl⟩ <;> exact .inl rfl
  | out =>
    rcases execOut_next h with rfl | ⟨hb, hp, -, rfl⟩
    · exact .inl rfl
    · exact .inr ⟨hb, hp, by simp⟩
  | fill => rcases execFill_next h with rfl | ⟨-, -, -, -, rfl⟩ <;> exact .inl rfl
  | red => rcases execRed_next h with rfl | ⟨-, -, -, -, rfl⟩ <;> exact .inl rfl

theorem engineTurn_pmem {s t : State} (h : runEvent .engine s = .next t) :
    t.pmem = s.pmem ∨ (s.status.busy = true ∧ s.seq.phase = .out ∧
      t.pmem = (s.setPmemByte s.outAddr (sat8 s.acc)).pmem) := by
  rcases engineTurn_next h with rfl | ⟨-, h⟩
  · exact .inl rfl
  · exact exec_phaseInstr_pmem h

theorem engineTurn_pmemByte_of_not_inDest {s t : State} (hinv : s.Inv)
    (h : runEvent .engine s = .next t) {x : Nat} (hx : ¬ s.inDest x) :
    t.pmemByte x = s.pmemByte x := by
  rcases engineTurn_pmem h with hp | ⟨hb, -, hp⟩
  · exact State.pmemByte_congr hp x
  · have hne : x ≠ s.outAddr := fun he => hx (he ▸ hinv.outAddr_inDest hb)
    rw [State.pmemByte_congr hp, State.pmemByte_setPmemByte, if_neg hne]

/-- Settles O43: the one byte an `OUT` stores lies in the destination region, which shares no byte with
the source region during a run. -/
theorem engineWritesOnlyTheDestination : Obligations.EngineWritesOnlyTheDestination := by
  intro s t h hn ht
  rw [step_eq_runEvent, State.engineNext_iff.1 hn] at ht
  have hkept : ∀ x, ¬ s.inDest x → t.pmemByte x = s.pmemByte x := fun x hx =>
    engineTurn_pmemByte_of_not_inDest (h.setEvents s.events.tail) ht hx
  exact ⟨hkept, fun x hb hx => hkept x (h.not_inDest_of_inSource hb hx)⟩

end Sys2Proof.Machine

/-! ## The host's pixel accesses, and what is refused -/

namespace Sys2Proof.Machine

theorem exec_prd (addr : BitVec 32) (s : State) : exec (.prd addr) s =
    if addr.toNat < s.cfg.pmemBytes then .next (s.setReply (.byte (s.pmemByte addr.toNat)))
    else .refused .hostAddress := by
  rcases execPrd_cases addr s with ⟨ha, he⟩ | ⟨ha, he⟩
  · rw [if_pos ha]; exact he
  · rw [if_neg (Nat.not_lt.2 ha)]; exact he

theorem exec_pwr (addr : BitVec 32) (data : Byte) (s : State) : exec (.pwr addr data) s =
    if addr.toNat < s.cfg.pmemBytes then .next (s.setPmemByte addr.toNat data)
    else .refused .hostAddress := by
  rcases execPwr_cases addr data s with ⟨ha, he⟩ | ⟨ha, he⟩
  · rw [if_pos ha]; exact he
  · rw [if_neg (Nat.not_lt.2 ha)]; exact he

/-- Settles O12: `PRD` replies the byte, `PWR` stores it by `State.setPmemByte`, which writes no other
field. -/
theorem hostPixelAccessesReachPmemOnly : Obligations.HostPixelAccessesReachPmemOnly := by
  intro s addr data
  rw [exec_prd, exec_pwr]
  refine ⟨fun ha => ?_, fun ha => ?_⟩
  · simp only [if_pos ha]
    exact ⟨rfl, _, rfl, fun x => s.pmemByte_setPmemByte addr.toNat x data, rfl⟩
  · simp only [if_neg (Nat.not_lt.2 ha), and_self]

theorem whenEnabled_ne_refused {p : Phase} {s : State} {k : Host.Outcome State Fault Refusal}
    {r : Refusal} (hk : k ≠ .refused r) : whenEnabled p s k ≠ .refused r := by
  unfold whenEnabled
  split
  · exact hk
  · simp

/-- The engine's accesses that do not exist are faults, not refusals. -/
theorem exec_phaseInstr_ne_refused (p : Phase) (s : State) (r : Refusal) :
    exec (phaseInstr p) s ≠ .refused r := by
  cases p with
  | idle => rintro ⟨⟩
  | pad | mac | out =>
    refine whenEnabled_ne_refused ?_
    split <;> simp
  | fill =>
    refine whenEnabled_ne_refused ?_
    split
    · simp
    · split <;> simp
  | red =>
    refine whenEnabled_ne_refused ?_
    split
    · split <;> simp
    · simp

theorem wellFormed_of_readWord {s : State} {i : Instr} {v : Word} (h : readWord s i = some v)
    (cfg : Config) : i.wellFormed cfg = true := by
  cases i <;> cases h <;> rfl

theorem wellFormed_of_writeEffect {i : Instr} {effect : State → State}
    (h : writeEffect i = some effect) (cfg : Config) : i.wellFormed cfg = true := by
  cases i <;> cases h <;> rfl

theorem wellFormed_phaseInstr (p : Phase) (cfg : Config) :
    (phaseInstr p).wellFormed cfg = true := by
  cases p <;> rfl

/-- Settles O28, by the kinds of `exec_cases`: all but the pixel accesses are well formed and never
refused. -/
theorem onlyIllFormedInstructionsAreRefused : Obligations.OnlyIllFormedInstructionsAreRefused := by
  intro i s
  rcases exec_cases i s with ⟨v, hv, he⟩ | ⟨effect, hw, he⟩ | ⟨p, rfl⟩ | ⟨addr, rfl⟩ |
    ⟨addr, data, rfl⟩
  · simp [he, wellFormed_of_readWord hv]
  · simp [he, wellFormed_of_writeEffect hw]
  · simp [exec_phaseInstr_ne_refused, wellFormed_phaseInstr]
  · rw [exec_prd]
    split <;> simp [Instr.wellFormed, *]
  · rw [exec_pwr]
    split <;> simp [Instr.wellFormed, *]

end Sys2Proof.Machine

/-! ## The encoder and the decoder -/

namespace Sys2Proof.Machine

/-- The decoder inverts the encoder: a case per row of the opcode table, whose operands the formats carry
in fields of their own (R91 to R95). -/
theorem decode_encode (i : Instr) : decode (encode i) = .ok i := by
  cases i with
  | nop | start | clear | sreset => rfl
  | rdId | rdCap | rdCtrl | rdStatus | rdCmd | rdWidth | rdHeight | rdKsize | rdSrcBase | rdDstBase
  | rdKaddr | rdKdata => rfl
  | wrCtrl | wrCmd | wrWidth | wrHeight | wrKsize | wrSrcBase | wrDstBase | wrKaddr | wrKdata => rfl
  | idle | pad | mac | out | fill | red => rfl
  | prd | pwr => rfl

/-- The header of a read has bit 4 clear. -/
theorem readHeader_toNat_lt (widx : BitVec 4) : (0#1 ++ widx).toNat < 16 := by
  revert widx
  decide

/-- Settles O26: `decode` inverts `encode`, and `encode` inverts `decode` format by format. -/
theorem decodeAndEncodeAgree : Obligations.DecodeAndEncodeAgree := by
  refine ⟨decode_encode, fun p i h => ?_⟩
  rcases encode_of_decode h with hp | ⟨widx, d, rfl, hi⟩ | hpx
  · exact .inl hp
  · exact .inr (.inl ⟨_, d, rfl, readHeader_toNat_lt widx, hi⟩)
  · exact .inr (.inr hpx)

/-- Settles O25: the five packets are the encodings of their instructions. -/
theorem sampleWordsDecode : Obligations.SampleWordsDecode :=
  ⟨decode_encode .start, decode_encode .rdStatus, decode_encode (.wrKdata _), decode_encode (.pwr _ _),
    decode_encode .red⟩

/-! ### A command word -/

/-- A command word is the write of that word to `CMD` (R103): only the four commands have a `CMDW` row, and
a word without one is rejected to the write itself. -/
theorem runPacket_cmdw (w : Word) (s : State) : runPacket (.cmdw w) s = exec (.wrCmd w) s := by
  cases hd : decode (.cmdw w) with
  | ok i =>
    rw [runPacket_ok s hd]
    have hw : encode i = .cmdw w := encode_of_decodeCmd hd
    cases i <;> cases hw <;> rfl
  | error r =>
    rw [runPacket_error s hd]
    obtain ⟨-, rfl⟩ := decodeCmd_eq_error.1 hd
    rfl

/-- Settles O11: both forms are the write to `CMD`. -/
theorem commandWordIsAWriteToCmd : Obligations.CommandWordIsAWriteToCmd := fun s w =>
  (runPacket_cmdw w s).trans (runPacket_ok s (decode_encode (.wrCmd w))).symm

/-! ### A listed move and its packet -/

theorem runEvent_of_eventPacket {e : Event} {p : Packet} {s : State} (h : eventPacket e s = some p) :
    runEvent e s = runPacket p s := by
  rw [runEvent, h]

/-- The step performs the packet of the first listed event, and the instruction it decodes to. -/
theorem step_of_eventPacket {s : State} {e : Event} {rest : List Event} {p : Packet}
    (h : s.events = e :: rest) (he : eventPacket e (s.setEvents rest) = some p) :
    step s = runPacket p (s.setEvents rest) ∧
    ∀ i, decode p = .ok i → step s = exec i (s.setEvents rest) := by
  have hs : step s = runPacket p (s.setEvents rest) :=
    (step_cons h).trans (runEvent_of_eventPacket he)
  exact ⟨hs, fun i hi => hs.trans (runPacket_ok _ hi)⟩

/-- Settles O22: each kind of host move brings its own packet. -/
theorem stepRunsTheDecodedInstruction : Obligations.StepRunsTheDecodedInstruction := fun _ _ =>
  ⟨fun _ _ h => step_of_eventPacket h rfl, fun _ _ _ h => step_of_eventPacket h rfl,
    fun _ h => step_of_eventPacket h rfl⟩

/-! ### A word of the opcode table as the next move -/

theorem decodeTableWord_eq_some {nbits w : Nat} {i : Instr} :
    decodeTableWord nbits w = some i ↔ ∃ p, tablePacket nbits w = some p ∧ decode p = .ok i := by
  unfold decodeTableWord
  cases tablePacket nbits w with
  | none => simp
  | some p => cases hd : decode p <;> simp [hd]

theorem State.withFetchWord_of_tablePacket {nbits w : Nat} {p : Packet} (s : State)
    (h : tablePacket nbits w = some p) : s.withFetchWord nbits w = placePacket p s := by
  rw [State.withFetchWord, h]

/-- Three bits are a `UOP` code (log entry 8). -/
theorem tablePacket_three {w : Nat} {p : Packet} (h : tablePacket 3 w = some p) :
    ∃ code : BitVec 3, code.toNat = w ∧ p = .uop code := by
  simp only [tablePacket, Option.ite_none_right_eq_some, Option.some.injEq] at h
  obtain ⟨hw, rfl⟩ := h
  exact ⟨_, (BitVec.toNat_ofNat w 3).trans (Nat.mod_eq_of_lt hw), rfl⟩

/-- Any other number of bits is a host packet (log entry 8). -/
theorem tablePacket_ne_uop {nbits : Nat} (hn : nbits ≠ 3) (w : Nat) (code : BitVec 3) :
    tablePacket nbits w ≠ some (.uop code) := by
  unfold tablePacket
  split
  case h_4 => exact absurd rfl hn
  all_goals simp

/-- A host packet placed as the next move is taken off again by the step that runs it. -/
theorem step_placePacket_host {p : Packet} {i : Instr} (s : State) (hp : ∀ code, p ≠ .uop code)
    (hd : decode p = .ok i) : step (placePacket p s) = exec i s := by
  cases p with
  | rx header d => exact (step_of_eventPacket rfl rfl).2 i hd
  | px kind addr data => exact (step_of_eventPacket rfl rfl).2 i hd
  | cmdw w => exact (step_of_eventPacket rfl rfl).2 i hd
  | uop code => exact absurd rfl (hp code)

theorem phaseOfCode_phaseCode (ph : Phase) : phaseOfCode (phaseCode ph) = some ph := by
  cases ph <;> rfl

/-- The codes that decode are those of the six phases (R47, R95). -/
theorem exists_phase_of_decodeUop {code : BitVec 3} {i : Instr} (h : decodeUop code = .ok i) :
    ∃ ph, code = phaseCode ph ∧ i = phaseInstr ph := by
  unfold decodeUop at h
  split at h <;> cases h
  all_goals
    rename_i hc
    rw [eq_ofNat_of_toNat_eq hc]
  · exact ⟨.idle, rfl, rfl⟩
  · exact ⟨.pad, rfl, rfl⟩
  · exact ⟨.mac, rfl, rfl⟩
  · exact ⟨.out, rfl, rfl⟩
  · exact ⟨.fill, rfl, rfl⟩
  · exact ⟨.red, rfl, rfl⟩

/-- Where `BUSY` is as `PHASE` needs it (R46), the engine's turn runs what `PHASE` names. -/
theorem runEvent_engine_of_busy_eq {s : State} (h : s.status.busy = decide (s.seq.phase ≠ .idle)) :
    runEvent .engine s = exec (phaseInstr s.seq.phase) s := by
  by_cases hp : s.seq.phase = .idle
  · rw [runEvent_engine_idle (by simpa [hp] using h), hp]
    rfl
  · exact runEvent_engine_busy (by simpa [hp] using h)

/-- `s` with `PHASE` at `ph` and `BUSY` as it needs (R46). -/
def State.atPhase (s : State) (ph : Phase) : State :=
  { s with
    seq := { s.seq with phase := ph }
    status := { s.status with busy := decide (ph ≠ .idle) } }

theorem placePacket_phaseCode (ph : Phase) (s : State) : placePacket (.uop (phaseCode ph)) s =
    (s.atPhase ph).setEvents (.engine :: s.events) := by
  rw [placePacket, phaseOfCode_phaseCode]
  rfl

theorem step_placePacket_phaseCode (ph : Phase) (s : State) :
    step (placePacket (.uop (phaseCode ph)) s) = exec (phaseInstr ph) (s.atPhase ph) := by
  rw [placePacket_phaseCode, step_cons (rest := s.events) rfl]
  exact runEvent_engine_of_busy_eq (s := s.atPhase ph) rfl

/-- Settles O24: a word of three bits is placed as a phase, any other as a host move. -/
theorem placedTableWordRunsNext : Obligations.PlacedTableWordRunsNext := by
  intro s nbits w i h
  obtain ⟨p, hp, hd⟩ := decodeTableWord_eq_some.1 h
  rw [s.withFetchWord_of_tablePacket hp]
  constructor
  · intro hn
    exact step_placePacket_host s (fun code hc => tablePacket_ne_uop hn w code (hc ▸ hp)) hd
  · rintro rfl
    obtain ⟨code, rfl, rfl⟩ := tablePacket_three hp
    obtain ⟨ph, rfl, rfl⟩ := exists_phase_of_decodeUop hd
    exact ⟨ph, rfl, step_placePacket_phaseCode ph s⟩

end Sys2Proof.Machine

/-! ## Register reads and writes -/

namespace Sys2Proof.Machine

theorem exec_of_readWord {i : Instr} {s : State} {v : Word} (h : readWord s i = some v) :
    exec i s = .next (s.setReply (.word v)) := by
  cases i <;> cases h <;> rfl

section
variable (i : Instr) {effect : State → State} (h : writeEffect i = some effect) {s : State}
include h

theorem exec_of_writeEffect (s : State) : exec i s = .next (acceptWrite effect s) := by
  cases i <;> cases h <;> rfl

theorem exec_write_idle (hb : s.status.busy = false) : exec i s = .next (effect s) := by
  rw [exec_of_writeEffect i h, acceptWrite_idle effect hb]

theorem exec_write_busy (hb : s.status.busy = true) :
    exec i s = .next (s.setStatus { s.status with wign := true }) := by
  rw [exec_of_writeEffect i h, acceptWrite_busy effect hb]

end

/-- Settles O5: each of the thirteen is a register write or a command, and dropped the same way. -/
theorem writesWhileBusyOnlySetWign : Obligations.WritesWhileBusyOnlySetWign := by
  intro s data hb i hi
  have hwrite : (writeEffect i).isSome = true := by
    revert i
    simp [writeEffect]
  obtain ⟨effect, he⟩ := Option.isSome_iff_exists.1 hwrite
  exact exec_write_busy i he hb

/-- Settles O6: the word index has no row, and an ignored write does nothing. -/
theorem writesToReadOnlyWordsAreIgnored : Obligations.WritesToReadOnlyWordsAreIgnored := by
  intro s widx d hidx
  exact runPacket_error s ((decode_write widx d).trans (decodeWrite_eq_error.2 ⟨hidx, rfl⟩))

/-- Settles O8: the three commands' effects while idle, and the drop while busy. -/
theorem nopClearAndSresetHaveTheirEffect : Obligations.NopClearAndSresetHaveTheirEffect := by
  intro s
  refine ⟨fun hb => ⟨exec_write_idle .nop rfl hb, ⟨_, exec_write_idle .clear rfl hb, ?_, rfl⟩,
    exec_write_idle .sreset rfl hb⟩, fun hb i hi => ?_⟩
  · simp [State.irq, clearEffect, Status.zero]
  · exact writesWhileBusyOnlySetWign s 0#32 hb i (by revert i; simp)

/-! ### The commands -/

theorem commandEffect_illegal {w : Word} (h : 3 < w.toNat) (s : State) :
    commandEffect w s = raiseError .illegalCommand s := by
  rcases commandEffect_cases w s with ⟨rfl, -⟩ | ⟨rfl, -⟩ | ⟨rfl, -⟩ | ⟨rfl, -⟩ | ⟨-, hc⟩
  case inr.inr.inr.inr => exact hc
  all_goals simp at h

theorem exec_wrCmd_illegal {w : Word} {s : State} (hb : s.status.busy = false)
    (hw : 3 < w.toNat) : exec (.wrCmd w) s = .next (raiseError .illegalCommand s) := by
  rw [exec_write_idle (.wrCmd w) rfl hb, commandEffect_illegal hw]

/-- Settles O10: in both forms the word is written to `CMD`, where it takes the error entry. -/
theorem illegalCommandTakesTheErrorEntry : Obligations.IllegalCommandTakesTheErrorEntry := by
  intro s w hb hw p hp
  have hrun : runPacket p s = exec (.wrCmd w) s := by
    rcases List.mem_pair.1 hp with rfl | rfl
    · exact runPacket_ok s (decode_encode (.wrCmd w))
    · exact runPacket_cmdw w s
  rw [hrun, exec_wrCmd_illegal hb hw]
  rfl

theorem State.chans_eq (s : State) : s.chans = 1 + 2 * s.ctrl.rgb.toNat := by
  unfold State.chans
  cases s.ctrl.rgb <;> rfl

/-- `START` as one chain: the checks in the order of R244, each with its error entry. -/
theorem startEffect_eq_ite (s : State) : startEffect s =
    if s.k = 0 ∨ s.k % 2 = 0 ∨ Config.kmax < s.k then raiseError .invalidKernel (clearStatus s)
    else if s.w = 0 ∨ s.h = 0 then raiseError .dimensionMismatch (clearStatus s)
    else if min s.w s.h < s.k then raiseError .dimensionMismatch (clearStatus s)
    else if s.cfg.pmemBytes < s.src + s.bufBytes ∨ s.cfg.pmemBytes < s.dst + s.bufBytes then
      raiseError .addressRange (clearStatus s)
    else if s.src < s.dst + s.bufBytes ∧ s.dst < s.src + s.bufBytes then
      raiseError .bufferOverlap (clearStatus s)
    else beginRun (clearStatus s) := by
  unfold startEffect startCheck
  split_ifs <;> rfl

/-- Settles O9: the chain of `startEffect_eq_ite` with the operands named as R115 names them. -/
theorem startChecksInOrderThenBeginsTheRun : Obligations.StartChecksInOrderThenBeginsTheRun := by
  rintro s K W H C N S D P hb rfl rfl rfl rfl rfl rfl rfl rfl
  rw [exec_write_idle .start rfl hb, startEffect_eq_ite, State.bufBytes, s.chans_eq]
  rfl

/-- Settles O51: the checks pass, so `START` clears `STATUS` and begins the run. -/
theorem acceptedStartBeginsARun : Obligations.AcceptedStartBeginsARun := by
  intro s h hb hc he
  have hstart : startEffect s = beginRun (clearStatus s) := by rw [startEffect, hc]
  have hinv : (beginRun (clearStatus s)).Inv := (h.clearStatus hb).beginRun rfl hc
  exact ⟨_, (exec_write_idle .start rfl hb).trans (congrArg _ hstart), ⟨hinv, rfl, rfl, he⟩, rfl⟩

/-! ### The value a register read returns -/

/-- The number a field and the field below it make. -/
theorem toNat_append_eq_mul_add {m n : Nat} (x : BitVec m) (y : BitVec n) :
    (x ++ y).toNat = x.toNat * 2 ^ n + y.toNat := by
  rw [BitVec.toNat_append, ← Nat.shiftLeft_add_eq_or_of_lt y.isLt, Nat.shiftLeft_eq]

theorem statusWord_toNat (st : Status) : (statusWord st).toNat =
    st.busy.toNat + 2 * st.done.toNat + 4 * st.err.toNat + 8 * st.nv.toNat + 16 * st.wign.toNat +
      256 * st.errcode.toNat := by
  simp only [statusWord, toNat_append_eq_mul_add, BitVec.toNat_ofBool, BitVec.toNat_ofNat]
  omega

theorem ctrlWord_toNat (c : Ctrl) :
    (ctrlWord c).toNat = c.ie.toNat + 2 * c.rgb.toNat + 4 * c.strat.toNat := by
  simp only [ctrlWord, toNat_append_eq_mul_add, BitVec.toNat_ofBool, BitVec.toNat_ofNat]
  omega

theorem State.kdataWord_eq (s : State) :
    s.kdataWord = if s.kaddr.toNat ≤ 10200 then s.kmemWord s.kaddr.toNat else 0#32 := by
  unfold State.kdataWord
  split_ifs with hk
  · rw [State.weight_of_lt (Nat.lt_succ_of_le hk)]
  · rw [State.weight_of_ge (Nat.lt_of_not_le hk)]

/-- Settles O3: the words of `readWord` as R112 writes them, and the unmapped words without a row. -/
theorem registerReadsReturnTheirValues : Obligations.RegisterReadsReturnTheirValues := by
  intro s
  rw [← ctrlWord_toNat, ← statusWord_toNat, ← s.kdataWord_eq]
  simp only [BitVec.ofNat_toNat, BitVec.setWidth_eq]
  refine ⟨rfl, rfl, rfl, rfl, rfl, rfl, rfl, rfl, rfl, rfl, rfl, rfl, fun widx d hidx => ?_⟩
  exact runPacket_error s ((decode_read widx d).trans (decodeRead_eq_error.2 ⟨hidx, rfl⟩))

/-! ### A write of `KDATA` -/

section
variable (data : Word) (s : State)

/-- `WR KDATA` changes `KMEM` and `KADDR` and nothing else. -/
theorem kdataEffect_frame :
    ∃ kmem, kdataEffect data s = { s with kmem := kmem, kaddr := s.kaddr + 1#14 } := by
  unfold kdataEffect
  split
  · exact ⟨_, rfl⟩
  · exact ⟨_, rfl⟩

@[simp] theorem kdataEffect_status : (kdataEffect data s).status = s.status := by
  obtain ⟨kmem, h⟩ := kdataEffect_frame data s
  rw [h]

@[simp] theorem kdataEffect_events : (kdataEffect data s).events = s.events := by
  obtain ⟨kmem, h⟩ := kdataEffect_frame data s
  rw [h]

@[simp] theorem kdataEffect_kaddr : (kdataEffect data s).kaddr = s.kaddr + 1#14 := rfl

theorem kdataEffect_kaddr_toNat (hk : s.kaddr.toNat ≤ 10200) :
    (kdataEffect data s).kaddr.toNat = s.kaddr.toNat + 1 :=
  toNat_add_one (by omega)

/-- It stores the word in the entry at `KADDR`, if there is one, and in no other. -/
theorem kdataEffect_kmemWord (n : Nat) : (kdataEffect data s).kmemWord n =
    if n = s.kaddr.toNat ∧ n ≤ 10200 then data else s.kmemWord n := by
  unfold kdataEffect
  split
  next hk =>
    have hn : n = s.kaddr.toNat ∧ n ≤ 10200 ↔ n = s.kaddr.toNat :=
      ⟨And.left, fun hn => ⟨hn, Nat.le_of_lt_succ (hn ▸ hk)⟩⟩
    exact (s.kmemWord_setKmemWord _ n data).trans (if_congr hn.symm rfl rfl)
  next hk =>
    have hn : ¬ (n = s.kaddr.toNat ∧ n ≤ 10200) := fun ⟨hn, hle⟩ => hk (hn ▸ Nat.lt_succ_of_le hle)
    rw [if_neg hn]
    rfl

end

/-- Settles O4: `writeEffect` of each write, its data fields named by bits; `CMD` by its word's command. -/
theorem acceptedWritesHaveTheirEffect : Obligations.AcceptedWritesHaveTheirEffect := by
  intro s data hb
  have hlow {n : Nat} (hn : n ≤ 32) : data.extractLsb' 0 n = data.setWidth n :=
    (BitVec.setWidth_eq_extractLsb' hn).symm
  rw [hlow (n := 16) (by decide), hlow (n := 8) (by decide), hlow (n := 14) (by decide)]
  have hkdata : ∃ t, exec (.wrKdata data) s = .next t ∧
      t.kaddr.toNat = (s.kaddr.toNat + 1) % 16384 ∧
      (∀ n, t.kmemWord n = if n = s.kaddr.toNat ∧ n ≤ 10200 then data else s.kmemWord n) ∧
      { t with kmem := s.kmem, kaddr := s.kaddr } = s := by
    obtain ⟨kmem, hframe⟩ := kdataEffect_frame data s
    exact ⟨_, exec_write_idle (.wrKdata data) rfl hb, BitVec.toNat_add _ _, kdataEffect_kmemWord data s,
      by rw [hframe]⟩
  have hcmd (i : Instr) (hi : decode (.cmdw data) = .ok i) :
      exec (.wrCmd data) s = exec i s ∧ ∃ t, exec (.wrCmd data) s = .next t :=
    ⟨(runPacket_cmdw data s).symm.trans (runPacket_ok s hi), _, exec_write_idle (.wrCmd data) rfl hb⟩
  exact ⟨exec_write_idle (.wrCtrl data) rfl hb, hcmd, exec_wrCmd_illegal hb,
    exec_write_idle (.wrWidth data) rfl hb, exec_write_idle (.wrHeight data) rfl hb,
    exec_write_idle (.wrKsize data) rfl hb, exec_write_idle (.wrSrcBase data) rfl hb,
    exec_write_idle (.wrDstBase data) rfl hb, exec_write_idle (.wrKaddr data) rfl hb, hkdata⟩

end Sys2Proof.Machine

/-! ## Loading the weights -/

namespace Sys2Proof.Machine

open Host (Core)

theorem run_succ {n : Nat} {s t : State} (h : step s = .next t) :
    Core.run core (n + 1) s = Core.run core n t := by
  have hstep : core.step s = .next t := h
  simp only [Core.run, hstep]

theorem step_wrKdata {s : State} {v : Word} {rest : List Event}
    (he : s.events = .rx 0b11011#5 v :: rest) (hb : s.status.busy = false) :
    step s = .next (kdataEffect v (s.setEvents rest)) :=
  ((step_of_eventPacket he rfl).2 _ (decode_encode (.wrKdata v))).trans
    (exec_write_idle (.wrKdata v) rfl hb)

/-- `t` is `s` after the moves up to `rest`, which stored the words `ws` from entry `KADDR` on (R121). -/
structure Loaded (s : State) (ws : List Word) (rest : List Event) (t : State) : Prop where
  stored : ∀ n (h : n < ws.length), t.kmemWord (s.kaddr.toNat + n) = ws[n]
  kept : ∀ n, n < s.kaddr.toNat ∨ s.kaddr.toNat + ws.length ≤ n → t.kmemWord n = s.kmemWord n
  kaddr : t.kaddr.toNat = s.kaddr.toNat + ws.length
  frame : ∃ kmem kaddr, t = { s with kmem := kmem, kaddr := kaddr, events := rest }

theorem Loaded.nil {s : State} {rest : List Event} (he : s.events = rest) : Loaded s [] rest s where
  stored n h := absurd h (Nat.not_lt_zero n)
  kept _ _ := rfl
  kaddr := rfl
  frame := ⟨s.kmem, s.kaddr, by rw [← he]⟩

/-- One write of `KDATA`, and then the rest of the row from the next entry on. -/
theorem Loaded.cons {s t : State} {v : Word} {ws : List Word} {rest es : List Event}
    (hk : s.kaddr.toNat ≤ 10200) (h : Loaded (kdataEffect v (s.setEvents es)) ws rest t) :
    Loaded s (v :: ws) rest t := by
  obtain ⟨hstored, hkept, hkaddr, hframe⟩ := h
  have hnext : (kdataEffect v (s.setEvents es)).kaddr.toNat = s.kaddr.toNat + 1 :=
    kdataEffect_kaddr_toNat v _ hk
  have hword (n : Nat) : (kdataEffect v (s.setEvents es)).kmemWord n =
      if n = s.kaddr.toNat ∧ n ≤ 10200 then v else s.kmemWord n := kdataEffect_kmemWord v _ n
  rw [hnext] at hstored hkept hkaddr
  refine ⟨fun n hn => ?_, fun n hn => ?_, ?_, ?_⟩
  · cases n with
    | zero =>
      rw [hkept _ (by omega), hword, if_pos ⟨rfl, hk⟩]
      rfl
    | succ n =>
      have hsum : s.kaddr.toNat + (n + 1) = s.kaddr.toNat + 1 + n := by omega
      exact (congrArg t.kmemWord hsum).trans (hstored n (Nat.lt_of_succ_lt_succ hn))
  · rw [List.length_cons] at hn
    rw [hkept n (by omega), hword, if_neg (by omega)]
  · rw [hkaddr, List.length_cons]
    omega
  · obtain ⟨kmem, kaddr, rfl⟩ := hframe
    obtain ⟨kmem', hv⟩ := kdataEffect_frame v (s.setEvents es)
    exact ⟨kmem, kaddr, by rw [hv]; rfl⟩

/-- A row of writes of `KDATA` (R121). -/
def kdataWrites (ws : List Word) : List Event := ws.map fun v => .rx 0b11011#5 v

/-- A row of writes of `KDATA` that stays below the depth of `KMEM`, by induction on the row. -/
theorem run_kdataWrites (ws : List Word) {s : State} {rest : List Event}
    (hb : s.status.busy = false) (hk : s.kaddr.toNat + ws.length ≤ 10201)
    (he : s.events = kdataWrites ws ++ rest) :
    ∃ t, Core.run core ws.length s = .next t ∧ Loaded s ws rest t := by
  induction ws generalizing s with
  | nil => exact ⟨s, rfl, .nil he⟩
  | cons v ws ih =>
    rw [List.length_cons] at hk
    let s' := kdataEffect v (s.setEvents (kdataWrites ws ++ rest))
    have hstep : step s = .next s' := step_wrKdata he hb
    have hkaddr : s'.kaddr.toNat = s.kaddr.toNat + 1 :=
      kdataEffect_kaddr_toNat v _ (by rw [State.setEvents_kaddr]; omega)
    obtain ⟨t, hrun, hloaded⟩ := ih (s := s') (by simpa [s'] using hb) (by omega) (by simp [s'])
    exact ⟨t, (run_succ hstep).trans hrun, hloaded.cons (by omega)⟩

/-- Settles O7: `WR KADDR`, 0 and then the row, from entry 0 on. -/
theorem kernelLoadFillsTheEntriesInOrder : Obligations.KernelLoadFillsTheEntriesInOrder := by
  intro s ws rest hb hlen he
  have hstep : step s = .next { s.setEvents (kdataWrites ws ++ rest) with kaddr := 0#14 } :=
    ((step_of_eventPacket he rfl).2 _ (decode_encode (.wrKaddr 0#32))).trans
      (exec_write_idle (.wrKaddr 0#32) rfl hb)
  obtain ⟨t, hrun, hstored, hkept, hkaddr, kmem, kaddr, rfl⟩ :=
    run_kdataWrites ws (s := { s.setEvents (kdataWrites ws ++ rest) with kaddr := 0#14 }) hb
      (by simpa using hlen) rfl
  refine ⟨_, (run_succ hstep).trans hrun, fun n hn => ?_, fun n hn => ?_, ?_, rfl, rfl⟩
  · simpa using hstored n hn
  · exact hkept n (.inr (by simpa using hn))
  · simpa using hkaddr

end Sys2Proof.Machine

/-! ## The host's moves during a run -/

namespace Sys2Proof.Machine

theorem readWord_of_decodeRead {widx : BitVec 4} {i : Instr} (h : decodeRead widx = .ok i) (s : State) :
    ∃ v, readWord s i = some v := by
  unfold decodeRead at h
  split at h <;> cases h <;> exact ⟨_, rfl⟩

theorem writeEffect_of_decodeWrite {widx : BitVec 4} {d : Word} {i : Instr}
    (h : decodeWrite widx d = .ok i) : ∃ effect, writeEffect i = some effect := by
  unfold decodeWrite at h
  split at h <;> cases h <;> exact ⟨_, rfl⟩

/-- A register read replies a word, of an unmapped register too (R23), and changes nothing else. -/
theorem runPacket_read (widx : BitVec 4) (d : Word) (s : State) :
    ∃ v, runPacket (.rx (0#1 ++ widx) d) s = .next (s.setReply (.word v)) := by
  cases hd : decodeRead widx with
  | ok i =>
    obtain ⟨v, hv⟩ := readWord_of_decodeRead hd s
    exact ⟨v, (runPacket_ok s ((decode_read widx d).trans hd)).trans (exec_of_readWord hv)⟩
  | error r =>
    obtain ⟨-, rfl⟩ := decodeRead_eq_error.1 hd
    exact ⟨0#32, runPacket_error s ((decode_read widx d).trans hd)⟩

theorem writesRegister_read (widx : BitVec 4) (d : Word) :
    writesRegister (.rx (0#1 ++ widx) d) = false := by
  simp only [writesRegister]
  revert widx
  decide

/-- The nine writable registers are the ones whose writes are not ignored (R43, R113). -/
theorem writesRegister_write (widx : BitVec 4) (d : Word) :
    writesRegister (.rx (1#1 ++ widx) d) = decide (widx.toNat ∉ [0, 1, 3, 12, 13, 14, 15]) := by
  simp only [writesRegister]
  revert widx
  decide

/-- A register write while busy is dropped; it sets `WIGN` unless the word is read-only or unmapped. -/
theorem runPacket_write_busy (widx : BitVec 4) (d : Word) {s : State} (hb : s.status.busy = true) :
    runPacket (.rx (1#1 ++ widx) d) s = .next (s.setStatus
      { s.status with wign := s.status.wign || writesRegister (.rx (1#1 ++ widx) d) }) := by
  rw [writesRegister_write]
  by_cases hidx : widx.toNat ∈ [0, 1, 3, 12, 13, 14, 15]
  · simp only [hidx, not_true_eq_false, decide_false, Bool.or_false]
    exact writesToReadOnlyWordsAreIgnored s widx d hidx
  · simp only [hidx, not_false_eq_true, decide_true, Bool.or_true]
    cases hd : decodeWrite widx d with
    | ok i =>
      obtain ⟨effect, hi⟩ := writeEffect_of_decodeWrite hd
      exact (runPacket_ok s ((decode_write widx d).trans hd)).trans (exec_write_busy i hi hb)
    | error r => exact absurd (decodeWrite_eq_error.1 hd).1 hidx

/-- Everything a move of the host can do while `BUSY` = 1: a read replies, a register write or a command
word is dropped, a pixel write stores its byte. -/
theorem hostMove_busy_next {e : Event} {s t : State} (hb : s.status.busy = true) (hengine : e ≠ .engine)
    (hrst : e ≠ .rst) (h : runEvent e s = .next t) :
    (∃ (widx : BitVec 4) (d v : Word), e = .rx (0#1 ++ widx) d ∧ t = s.setReply (.word v)) ∨
    (∃ (widx : BitVec 4) (d : Word), e = .rx (1#1 ++ widx) d ∧
      t = s.setStatus { s.status with wign := s.status.wign || writesRegister e }) ∨
    (∃ addr data, e = .px 0#1 addr data ∧ t = s.setReply (.byte (s.pmemByte addr.toNat))) ∨
    (∃ addr data, e = .px 1#1 addr data ∧ t = s.setPmemByte addr.toNat data) ∨
    (∃ w, e = .cmdw w ∧ t = s.setStatus { s.status with wign := true }) := by
  cases e with
  | engine => exact absurd rfl hengine
  | rst => exact absurd rfl hrst
  | rx header d =>
    rw [runEvent_rx] at h
    obtain ⟨widx, rfl | rfl⟩ := rxHeader_cases header
    · obtain ⟨v, hread⟩ := runPacket_read widx d s
      exact .inl ⟨widx, d, v, rfl, (Host.Outcome.next.inj (hread.symm.trans h)).symm⟩
    · rw [runPacket_write_busy widx d hb] at h
      exact .inr (.inl ⟨widx, d, rfl, (Host.Outcome.next.inj h).symm⟩)
  | px kind addr data =>
    rw [runEvent_px] at h
    obtain rfl | rfl := BitVec.eq_zero_or_eq_one kind
    · rw [runPacket_ok (i := .prd addr) s rfl, exec_prd] at h
      split at h <;> cases h
      exact .inr (.inr (.inl ⟨addr, data, rfl, rfl⟩))
    · rw [runPacket_ok (i := .pwr addr data) s rfl, exec_pwr] at h
      split at h <;> cases h
      exact .inr (.inr (.inr (.inl ⟨addr, data, rfl, rfl⟩)))
  | cmdw w =>
    rw [runEvent_cmdw, runPacket_cmdw, exec_write_busy (.wrCmd w) rfl hb] at h
    exact .inr (.inr (.inr (.inr ⟨w, rfl, (Host.Outcome.next.inj h).symm⟩)))

/-- Settles O45: of each kind of move, the fields it leaves and the clause that speaks of it. -/
theorem hostMovesCannotTouchARun : Obligations.HostMovesCannotTouchARun := by
  intro s t e rest hb he hengine hrst h
  rw [step_cons he] at h
  rcases hostMove_busy_next (s := s.setEvents rest) hb hengine hrst h with
    ⟨widx, d, v, rfl, rfl⟩ | ⟨widx, d, rfl, rfl⟩ | ⟨addr, data, rfl, rfl⟩ | ⟨addr, data, rfl, rfl⟩ |
    ⟨w, rfl, rfl⟩
  · have hwe : (0#1 ++ widx).getLsbD 4 = false := (rxHeader_fields 0#1 widx).1
    refine ⟨⟨some (.word v), s.pmem, ?_⟩, nofun, nofun, ?_, nofun⟩
    · rw [writesRegister_read, Bool.or_false]
      rfl
    · rintro _ _ ⟨⟩
      exact ⟨rfl, fun hwe' => absurd (hwe.symm.trans hwe') (by simp), fun _ => ⟨v, rfl⟩⟩
  · have hwe : (1#1 ++ widx).getLsbD 4 = true := (rxHeader_fields 1#1 widx).1
    refine ⟨⟨s.reply, s.pmem, rfl⟩, nofun, nofun, ?_, nofun⟩
    rintro _ _ ⟨⟩
    exact ⟨rfl, fun _ => rfl, fun hwe' => absurd (hwe.symm.trans hwe') (by simp)⟩
  · refine ⟨⟨some (.byte (s.pmemByte addr.toNat)), s.pmem, ?_⟩, nofun, ?_, nofun, nofun⟩
    · rw [writesRegister, Bool.or_false]
      rfl
    · rintro _ _ ⟨⟩
      exact ⟨rfl, rfl⟩
  · refine ⟨⟨s.reply, (s.setPmemByte addr.toNat data).pmem, ?_⟩, ?_, nofun, nofun, nofun⟩
    · rw [writesRegister, Bool.or_false]
      rfl
    · rintro _ _ ⟨⟩
      exact ⟨rfl, fun x => s.pmemByte_setPmemByte _ x data⟩
  · refine ⟨⟨s.reply, s.pmem, ?_⟩, nofun, nofun, nofun, ?_⟩
    · rw [writesRegister, Bool.or_true]
      rfl
    · rintro _ ⟨⟩
      exact ⟨rfl, rfl⟩

end Sys2Proof.Machine

/-! ## The padded read -/

namespace Sys2Proof.Machine

/-- A coordinate of the image is not moved by the clamp (R142). -/
theorem clampCoord_of_eq {t : Int} {x size : Nat} (ht : t = x) (hx : x < size) :
    clampCoord t size = x := by
  simp only [clampCoord, clamp]
  omega

/-- The three cases of R142 determine the clamped coordinate. -/
theorem clampCoord_eq_of_cases {t : Int} {x size : Nat} (hsize : 0 < size) (hlow : t < 0 → x = 0)
    (hmid : 0 ≤ t → t ≤ size - 1 → (x : Int) = t) (hhigh : size - 1 < t → x = size - 1) :
    clampCoord t size = x := by
  simp only [clampCoord, clamp]
  omega

/-- Settles O13: the clamp of each coordinate is the one the three cases name. -/
theorem tapAddressIsTheClampedSample : Obligations.TapAddressIsTheClampedSample := by
  rintro s _ _ x y hw hh rfl rfl hxlow hxmid hxhigh hylow hymid hyhigh
  have hx := clampCoord_eq_of_cases hw hxlow hxmid hxhigh
  have hy := clampCoord_eq_of_cases hh hylow hymid hyhigh
  have haddr : s.tapAddr = s.srcAddr x y s.seq.ch.toNat :=
    congrArg₂ (s.srcAddr · · s.seq.ch.toNat) hx hy
  rw [haddr, State.srcAddr, State.addr, State.chans_eq]
  rfl

/-- The padded sample whose tap lands on the pixel (x, y) of the image is that pixel's sample. -/
theorem State.paddedSample_of_inside (s : State) {i j a b x y : Nat} (c : Nat)
    (hx : i + a = x + s.radius) (hy : j + b = y + s.radius) (hxw : x < s.w) (hyh : y < s.h) :
    s.paddedSample i j c a b = s.srcSample x y c := by
  have hcx : clampCoord ((i : Int) + a - s.radius) s.w = x := clampCoord_of_eq (by omega) hxw
  have hcy : clampCoord ((j : Int) + b - s.radius) s.h = y := clampCoord_of_eq (by omega) hyh
  rw [State.paddedSample, State.paddedAddr, hcx, hcy, State.srcSample]

theorem State.paddedSample_eq_paddedBuffer (s : State) (i j c a b : Nat) :
    s.paddedSample i j c a b = s.paddedBuffer (i + a) (j + b) c := by
  simp only [State.paddedSample, State.paddedAddr, State.paddedBuffer, State.srcSample,
    Nat.cast_add]

/-- Every sample of the padded buffer is a sample of the image, so what they all are it is too (R145 (c)). -/
theorem State.paddedSample_of_constant (s : State) {c : Nat} {v : Byte} (hw : 0 < s.w) (hh : 0 < s.h)
    (hv : ∀ x y, x < s.w → y < s.h → s.srcSample x y c = v) (i j a b : Nat) :
    s.paddedSample i j c a b = v :=
  hv _ _ (clampCoord_lt _ hw) (clampCoord_lt _ hh)

/-- Settles O14: the tap lands inside the image at (i + a − r, j + b − r) away from the border, since an
odd K is 2r + 1, and at (i, j) for the centre tap. -/
theorem paddedSampleReplicatesEdges : Obligations.PaddedSampleReplicatesEdges := by
  intro s i j c a b hodd hi hj
  have hk : s.k = 2 * s.radius + 1 := by
    have hkodd : s.k % 2 = 1 := hodd
    unfold State.radius
    omega
  refine ⟨s.paddedSample_eq_paddedBuffer i j c a b, ?_, s.paddedSample_of_inside c rfl rfl hi hj, ?_⟩
  · intro ha hb hleft hright htop hbottom
    exact s.paddedSample_of_inside c (by omega) (by omega) (by omega) (by omega)
  · intro v hv
    exact s.paddedSample_of_constant (by omega) (by omega) hv i j a b

/-- Settles O15: the enabled `PAD` reads the byte the padded sample is. -/
theorem padLatchesTheTapSample : Obligations.PadLatchesTheTapSample := by
  intro s hb hp ha
  have hexec : exec .pad s = execPad s := rfl
  rw [hexec, execPad, whenEnabled_on _ hb hp, State.memRead_of_lt ha]
  rfl

end Sys2Proof.Machine

/-! ## Filling the window -/

namespace Sys2Proof.Machine

/-- The sample of the current tap (R146, R147). -/
def State.tapSample (s : State) : Byte :=
  s.paddedSample s.seq.i.toNat s.seq.j.toNat s.seq.ch.toNat s.seq.a.toNat s.seq.b.toNat

/-- The state an enabled `FILL` answers (R147). -/
def State.fillNext (s : State) : State :=
  (s.setWinByte s.seq.a.toNat s.seq.b.toNat s.seq.ch.toNat s.tapSample).setSeq
    (afterFill s.chans s.k s.seq)

theorem execFill_eq_fillNext {s : State} (hb : s.status.busy = true) (hp : s.seq.phase = .fill)
    (ha : s.tapAddr < s.cfg.pmemBytes)
    (hw : winHas s.seq.a.toNat s.seq.b.toNat s.seq.ch.toNat = true) :
    execFill s = .next s.fillNext := by
  rw [execFill, whenEnabled_on _ hb hp, State.memRead_of_lt ha]
  exact if_pos hw

/-- `FILL` stores the sample of its own tap and channel, and no other entry (R147). -/
theorem State.fillNext_winByte {s : State} {a b c : Nat}
    (hq : winHas s.seq.a.toNat s.seq.b.toNat s.seq.ch.toNat = true) (hw : winHas a b c = true) :
    s.fillNext.winByte a b c =
      if a = s.seq.a.toNat ∧ b = s.seq.b.toNat ∧ c = s.seq.ch.toNat then
        s.paddedSample s.seq.i.toNat s.seq.j.toNat c a b
      else s.winByte a b c := by
  have hread : s.fillNext.winByte a b c =
      if winIndex a b c = winIndex s.seq.a.toNat s.seq.b.toNat s.seq.ch.toNat then s.tapSample
      else s.winByte a b c := s.winByte_setWinByte ..
  rw [hread]
  split_ifs with hindex hentry hentry
  · obtain ⟨rfl, rfl, rfl⟩ := hentry
    rfl
  · exact absurd (winIndex_inj hw hq hindex) hentry
  · obtain ⟨rfl, rfl, rfl⟩ := hentry
    exact absurd rfl hindex
  · rfl

/-- Settles O16: the enabled `FILL` answers `State.fillNext`, whose advance is R208's over the integers. -/
theorem fillStoresTheTapSampleInTheWindow : Obligations.FillStoresTheTapSampleInTheWindow := by
  rintro s _ _ hb hp haddr ha hb' hc rfl rfl
  have hq := winHas_eq_true.2 ⟨ha, hb', hc⟩
  refine ⟨s.fillNext, execFill_eq_fillNext hb hp haddr hq, fun a b c ha hb hc => ?_, ?_, rfl⟩
  · rw [State.fillNext_winByte hq (winHas_eq_true.2 ⟨ha, hb, hc⟩)]
    refine ite_congr rfl (fun hentry => ?_) fun _ => rfl
    obtain ⟨rfl, rfl, rfl⟩ := hentry
    rfl
  · have hchans : (s.chans : Int) = 1 + 2 * s.ctrl.rgb.toNat := by simp [State.chans_eq]
    have hseq : s.fillNext.seq = afterFill s.chans s.k s.seq := rfl
    have hlt (m : Nat) {n : Nat} {N : Int} (hn : (n : Int) = N) : (m : Int) < N - 1 ↔ m + 1 < n := by
      omega
    rw [hseq, afterFill]
    simp only [hlt _ hchans, hlt _ (show (s.k : Int) = s.ksize.toNat from rfl)]

/-! ### The order of the `FILL` steps of a pixel -/

/-- The number of the `FILL` step for tap (a, b) and channel `ch`: CH fastest, then B, then A (R208). -/
def fillIndex (c k a b ch : Nat) : Nat := ch + c * (b + k * a)

/-- The number of the `FILL` step at a position. -/
def Seq.fillStep (c k : Nat) (q : Seq) : Nat := fillIndex c k q.a.toNat q.b.toNat q.ch.toNat

/-- Where the last `FILL` of a pixel leaves the sequencer: the pixel's first `RED` (R208). -/
def Seq.firstRed (q : Seq) : Seq := { q with a := 0#7, b := 0#7, ch := 0#2, phase := .red }

/-- A quotient and a remainder are determined by the number they make. -/
theorem add_mul_inj {d m n m' n' : Nat} (hn : n < d) (hn' : n' < d) (h : n + d * m = n' + d * m') :
    m = m' ∧ n = n' := by
  have hd : 0 < d := Nat.zero_lt_of_lt hn
  obtain ⟨hdiv, hmod⟩ := (Nat.div_mod_unique hd).2 ⟨h, hn⟩
  obtain ⟨hdiv', hmod'⟩ := (Nat.div_mod_unique hd).2 ⟨rfl, hn'⟩
  exact ⟨hdiv.symm.trans hdiv', hmod.symm.trans hmod'⟩

/-- The entry (a, b, ch) is one of the window's, and not filled before step `n`. -/
abbrev StillToFill (c k n a b ch : Nat) : Prop :=
  (a < k ∧ b < k ∧ ch < c) ∧ n ≤ fillIndex c k a b ch

section
variable {c k a b ch : Nat}

theorem fillIndex_lt (ha : a < k) (hb : b < k) (hch : ch < c) : fillIndex c k a b ch < c * k ^ 2 := by
  have htap : b + k * a < k * k := Nat.add_mul_lt_mul_of_lt_of_lt hb ha
  rw [pow_two]
  exact Nat.add_mul_lt_mul_of_lt_of_lt hch htap

theorem fillIndex_inj {a' b' ch' : Nat} (hb : b < k) (hb' : b' < k) (hch : ch < c) (hch' : ch' < c)
    (h : fillIndex c k a b ch = fillIndex c k a' b' ch') : a = a' ∧ b = b' ∧ ch = ch' := by
  obtain ⟨htap, hchannel⟩ := add_mul_inj hch hch' h
  obtain ⟨ha, hb⟩ := add_mul_inj hb hb' htap
  exact ⟨ha, hb, hchannel⟩

theorem not_stillToFill_total : ¬ StillToFill c k (c * k ^ 2) a b ch :=
  fun ⟨⟨ha, hb, hch⟩, hle⟩ => Nat.not_lt.2 hle (fillIndex_lt ha hb hch)

variable {strat : Bool} {w h : Nat} {q : Seq} (hq : q.InRange strat w h c k)
include hq

theorem Seq.InRange.fillStep_lt : q.fillStep c k < c * k ^ 2 := fillIndex_lt hq.a hq.b hq.ch

/-- What a position has still to fill is its own entry and what the next step has. -/
theorem Seq.InRange.stillToFill_iff : StillToFill c k (q.fillStep c k) a b ch ↔
    StillToFill c k (q.fillStep c k + 1) a b ch ∨
      (a = q.a.toNat ∧ b = q.b.toNat ∧ ch = q.ch.toNat) := by
  constructor
  · rintro ⟨hin, hle⟩
    rcases hle.eq_or_lt with heq | hlt
    · exact .inr (fillIndex_inj hin.2.1 hq.b hin.2.2 hq.ch heq.symm)
    · exact .inl ⟨hin, hlt⟩
  · rintro (⟨hin, hlt⟩ | ⟨rfl, rfl, rfl⟩)
    · exact ⟨hin, Nat.le_of_succ_le hlt⟩
    · exact ⟨⟨hq.a, hq.b, hq.ch⟩, Nat.le_refl _⟩

/-- A `FILL` is the last of its pixel and the phase becomes `RED`, or the next `FILL` comes (R208). -/
theorem Seq.InRange.afterFill_cases (hc : c ≤ 3) (hk : k ≤ 101) :
    (q.fillStep c k + 1 = c * k ^ 2 ∧ Machine.afterFill c k q = q.firstRed) ∨
    ((Machine.afterFill c k q).fillStep c k = q.fillStep c k + 1 ∧
      ∃ a b ch, Machine.afterFill c k q = { q with a := a, b := b, ch := ch }) := by
  have hch0 := hq.ch
  have hb0 := hq.b
  have ha0 := hq.a
  unfold Machine.afterFill
  split_ifs with hch hb ha
  · refine .inr ⟨?_, _, _, _, rfl⟩
    simp only [Seq.fillStep, fillIndex, toNat_add_one (show q.ch.toNat + 1 < 2 ^ 2 by omega)]
    exact Nat.add_right_comm _ _ _
  · have hlast : c = q.ch.toNat + 1 := by omega
    refine .inr ⟨?_, _, _, _, rfl⟩
    simp only [Seq.fillStep, fillIndex, toNat_add_one (show q.b.toNat + 1 < 2 ^ 7 by omega),
      BitVec.toNat_ofNat]
    rw [hlast]
    ring
  · have hlast : c = q.ch.toNat + 1 := by omega
    have hlast' : k = q.b.toNat + 1 := by omega
    refine .inr ⟨?_, _, _, _, rfl⟩
    simp only [Seq.fillStep, fillIndex, toNat_add_one (show q.a.toNat + 1 < 2 ^ 7 by omega),
      BitVec.toNat_ofNat]
    rw [hlast, hlast']
    ring
  · have hlast : c = q.ch.toNat + 1 := by omega
    have hlast' : k = q.b.toNat + 1 := by omega
    have hsame : q.a.toNat = q.b.toNat := by omega
    refine .inl ⟨?_, rfl⟩
    rw [Seq.fillStep, fillIndex, hsame, hlast, hlast']
    ring

end

/-! ### All the `FILL` steps of a pixel -/

/-- `t` is `s` after the `FILL` steps its pixel still needs (R147, R208). -/
structure WindowFilled (s t : State) : Prop where
  win : ∀ a b c, winHas a b c = true → t.winByte a b c =
    if StillToFill s.chans s.k (s.seq.fillStep s.chans s.k) a b c then
      s.paddedSample s.seq.i.toNat s.seq.j.toNat c a b
    else s.winByte a b c
  seq : t.seq = s.seq.firstRed
  frame : ∃ win seq, t = { s with win := win, seq := seq }

section
variable {s : State} (h : s.Inv) (hb : s.status.busy = true)
include h hb

/-- During a run the window buffer has an entry for every tap and channel (R51). -/
theorem State.Inv.winHas_of_lt {a b c : Nat} (ha : a < s.k) (hb' : b < s.k) (hc : c < s.chans) :
    winHas a b c = true := by
  have hk := h.k_le hb
  have hchans := s.chans_le
  exact winHas_eq_true.2 ⟨by omega, by omega, by omega⟩

theorem State.Inv.winHas_seq : winHas s.seq.a.toNat s.seq.b.toNat s.seq.ch.toNat = true :=
  h.winHas_of_lt hb (h.run hb).aRange (h.run hb).bRange (h.run hb).chRange

theorem State.Inv.tapAddr_lt : s.tapAddr < s.cfg.pmemBytes := by
  obtain ⟨-, -, -, -, -, hsrc, -⟩ := startCheck_eq_none.1 (h.run hb).checks
  exact (h.tapAddr_inSource hb).2.trans_le hsrc

theorem State.Inv.execFill_eq (hp : s.seq.phase = .fill) : Machine.execFill s = .next s.fillNext :=
  execFill_eq_fillNext hb hp (h.tapAddr_lt hb) (h.winHas_seq hb)

theorem WindowFilled.of_last (hlast : s.seq.fillStep s.chans s.k + 1 = s.chans * s.k ^ 2)
    (hseq : afterFill s.chans s.k s.seq = s.seq.firstRed) : WindowFilled s s.fillNext where
  win a b c hw := by
    rw [State.fillNext_winByte (h.winHas_seq hb) hw]
    refine if_congr ?_ rfl rfl
    rw [(h.seq_inRange hb).stillToFill_iff, hlast, or_iff_right not_stillToFill_total]
  seq := hseq
  frame := ⟨_, _, rfl⟩

theorem WindowFilled.of_fillNext {t : State} {a' b' : BitVec 7} {ch' : BitVec 2}
    (hnext : (afterFill s.chans s.k s.seq).fillStep s.chans s.k = s.seq.fillStep s.chans s.k + 1)
    (hseq : afterFill s.chans s.k s.seq = { s.seq with a := a', b := b', ch := ch' })
    (ht : WindowFilled s.fillNext t) : WindowFilled s t where
  win a b c hw := by
    have hi : (afterFill s.chans s.k s.seq).i = s.seq.i := by rw [hseq]
    have hj : (afterFill s.chans s.k s.seq).j = s.seq.j := by rw [hseq]
    have hlater : t.winByte a b c =
        if StillToFill s.chans s.k ((afterFill s.chans s.k s.seq).fillStep s.chans s.k) a b c then
          s.paddedSample (afterFill s.chans s.k s.seq).i.toNat (afterFill s.chans s.k s.seq).j.toNat
            c a b
        else s.fillNext.winByte a b c := ht.win a b c hw
    rw [hlater, hnext, hi, hj, State.fillNext_winByte (h.winHas_seq hb) hw, ← ite_or]
    exact if_congr (h.seq_inRange hb).stillToFill_iff.symm rfl rfl
  seq := by
    have hset : t.seq = (afterFill s.chans s.k s.seq).firstRed := ht.seq
    rw [hset, hseq, Seq.firstRed, Seq.firstRed]
  frame := by
    obtain ⟨win, seq, rfl⟩ := ht.frame
    exact ⟨win, seq, rfl⟩

end

theorem step_fill {s : State} (h : s.Inv) (hb : s.status.busy = true) (hp : s.seq.phase = .fill)
    (he : s.events = []) : step s = .next s.fillNext := by
  rw [step_nil he, runEvent_engine_busy hb, hp]
  exact h.execFill_eq hb hp

/-- The remaining `FILL` steps of a pixel, by induction on how many there are. -/
theorem run_fill {n : Nat} {s : State} (h : s.Inv) (hb : s.status.busy = true)
    (hp : s.seq.phase = .fill) (he : s.events = [])
    (hn : s.seq.fillStep s.chans s.k + n = s.chans * s.k ^ 2) :
    ∃ t, Host.Core.run core n s = .next t ∧ WindowFilled s t := by
  induction n generalizing s with
  | zero => exact absurd hn (Nat.ne_of_lt (h.seq_inRange hb).fillStep_lt)
  | succ n ih =>
    have hstep := step_fill h hb hp he
    rcases (h.seq_inRange hb).afterFill_cases s.chans_le (h.k_le hb) with ⟨hlast, hseq⟩ | ⟨hnext, a, b, ch, hseq⟩
    · obtain rfl : n = 0 := by omega
      exact ⟨s.fillNext, run_succ hstep, .of_last h hb hlast hseq⟩
    · have h' : s.fillNext.Inv := h.execFill (h.execFill_eq hb hp)
      have hp' : s.fillNext.seq.phase = .fill := (congrArg Seq.phase hseq).trans hp
      have hn' : (afterFill s.chans s.k s.seq).fillStep s.chans s.k + n = s.chans * s.k ^ 2 := by
        omega
      obtain ⟨t, hrun, ht⟩ := ih h' hb hp' he hn'
      exact ⟨t, (run_succ hstep).trans hrun, .of_fillNext h hb hnext hseq ht⟩

/-- Settles O50: the first `FILL` of a pixel is step 0, from which on every entry of the window is still
to be filled. -/
theorem fillMaterialisesTheWindow : Obligations.FillMaterialisesTheWindow := by
  intro s h hb hp hch ha hb' he
  have hzero : s.seq.fillStep s.chans s.k = 0 := by simp [Seq.fillStep, fillIndex, ha, hb', hch]
  obtain ⟨t, hrun, hwin, hseq, win, seq, rfl⟩ := run_fill h hb hp he (by rw [hzero, Nat.zero_add])
  refine ⟨_, hrun, ?_, fun a b c ha hb' hc => ?_, fun a b c ha hb' hc hout => ?_, rfl⟩
  · exact hseq.trans (by simp [Seq.firstRed, ha, hb', hch])
  · rw [hwin a b c (h.winHas_of_lt hb ha hb' hc), if_pos ⟨⟨ha, hb', hc⟩, hzero ▸ Nat.zero_le _⟩]
  · rw [hwin a b c (winHas_eq_true.2 ⟨ha, hb', hc⟩), if_neg fun hin => hout hin.1]

end Sys2Proof.Machine

/-! ## Rounding to the nearest binary32 value -/

namespace Sys2Proof.Machine

/-! ### `rne` picks a nearest multiple -/

section
variable {n d : Nat}

/-- `rne(n / d)` is at most half a step away from n / d, and even when it is exactly half a step (R156). -/
theorem rne_within_half (hd : 0 < d) :
    2 * ((rne n d * d : Int) - n).natAbs ≤ d ∧
    (2 * ((rne n d * d : Int) - n).natAbs = d → rne n d % 2 = 0) := by
  have hdiv : (n / d : Int) * d + (n % d : Nat) = n := by
    rw [mul_comm]; exact_mod_cast Nat.div_add_mod n d
  have hmod : n % d < d := Nat.mod_lt n hd
  have hsucc : ((n / d : Nat) + 1 : Int) * d = (n / d : Int) * d + d := by push_cast; ring
  simp only [rne]
  split_ifs with hlow hhigh
  · push_cast; omega
  · push_cast at *; omega
  · rcases Nat.mod_two_eq_zero_or_one (n / d) with heven | hodd
    · rw [heven, Nat.add_zero]; push_cast; omega
    · rw [hodd]; push_cast at *; omega

/-- Two different multiples of `d` are at least `d` apart. -/
theorem le_natAbs_sub_of_dvd {p q : Nat} (hp : d ∣ p) (hq : d ∣ q) (hne : p ≠ q) :
    d ≤ ((p : Int) - q).natAbs := by
  refine Nat.le_of_dvd (by omega) (Int.natCast_dvd.1 ?_)
  exact dvd_sub (Int.natCast_dvd_natCast.2 hp) (Int.natCast_dvd_natCast.2 hq)

/-- No multiple of `d` is nearer to n than `rne(n / d)` times d, and a tie is decided for the even one. -/
theorem rne_nearest {p : Nat} (hd : 0 < d) (hp : d ∣ p) :
    ((rne n d * d : Int) - n).natAbs ≤ ((p : Int) - n).natAbs ∧
    (p ≠ rne n d * d → ((rne n d * d : Int) - n).natAbs = ((p : Int) - n).natAbs →
      rne n d % 2 = 0) := by
  obtain ⟨hhalf, htie⟩ := rne_within_half (n := n) hd
  rcases eq_or_ne p (rne n d * d) with rfl | hne
  · exact ⟨by push_cast; rfl, fun h => absurd rfl h⟩
  · have hgap := le_natAbs_sub_of_dvd hp (Nat.dvd_mul_left d (rne n d)) hne
    push_cast at hgap
    exact ⟨by omega, fun _ heq => htie (by omega)⟩

/-- An even integer is reached from half a step below it on. -/
theorem le_rne_iff {q : Nat} (hd : 0 < d) (heven : q % 2 = 0) :
    q ≤ rne n d ↔ 2 * (q * d) ≤ 2 * n + d := by
  obtain ⟨hhalf, htie⟩ := rne_within_half (n := n) hd
  have hcast : (rne n d * d : Int) = (rne n d * d : Nat) := by push_cast; rfl
  rw [hcast] at hhalf htie
  constructor
  · intro hle
    have hmul : q * d ≤ rne n d * d := Nat.mul_le_mul_right d hle
    omega
  · intro hle
    by_contra hlt
    have hsucc : (rne n d + 1) * d ≤ q * d := Nat.mul_le_mul_right d (Nat.lt_of_not_le hlt)
    have heq : (rne n d + 1) * d = q * d := by
      rw [Nat.succ_mul] at hsucc ⊢
      omega
    have hq : rne n d + 1 = q := Nat.eq_of_mul_eq_mul_right hd heq
    rw [Nat.succ_mul] at heq
    have hrne : rne n d % 2 = 0 := htie (by omega)
    omega

/-- Half a step is a tie and goes to the even 0. -/
theorem rne_eq_zero (hd : 0 < d) : rne n d = 0 ↔ 2 * n ≤ d := by
  constructor
  · intro hzero
    have hhalf := (rne_within_half (n := n) hd).1
    rw [hzero] at hhalf
    omega
  · intro hle
    have hlt : n < d := by omega
    simp only [rne, Nat.div_eq_of_lt hlt, Nat.mod_eq_of_lt hlt]
    split_ifs <;> omega

end

/-! ### The spacing of R159 -/

/-- The spacing of the binary32 values around n · 2^−298 is 2^`spacingExp n` in the same units (R159). -/
def spacingExp (n : Nat) : Nat := if n < 2 ^ 172 then 149 else n.log2 - 23

theorem spacingExp_of_lt {n : Nat} (h : n < 2 ^ 172) : spacingExp n = 149 := if_pos h

theorem spacingExp_of_le {n : Nat} (h : 2 ^ 172 ≤ n) : spacingExp n = n.log2 - 23 :=
  if_neg (Nat.not_lt.2 h)

theorem le_log2_of_normal {n : Nat} (h : 2 ^ 172 ≤ n) : 172 ≤ n.log2 :=
  (Nat.le_log2 (by omega)).2 h

theorem le_spacingExp (n : Nat) : 149 ≤ spacingExp n := by
  rcases Nat.lt_or_ge n (2 ^ 172) with h | h
  · exact (spacingExp_of_lt h).ge
  · have hlog := le_log2_of_normal h
    rw [spacingExp_of_le h]
    omega

theorem roundMag_eq_rne (n : Nat) :
    roundMag n = rne n (2 ^ spacingExp n) * 2 ^ (spacingExp n - 149) := rfl

theorem roundMag_mul_unit (n : Nat) :
    roundMag n * 2 ^ 149 = rne n (2 ^ spacingExp n) * 2 ^ spacingExp n := by
  rw [roundMag_eq_rne, mul_assoc, ← pow_add, Nat.sub_add_cancel (le_spacingExp n)]

theorem isBinary32_fin {neg : Bool} {m : Nat} :
    (F32.fin neg m).isBinary32 = true ↔ m < F32.limit ∧ m % 2 ^ (m.log2 - 23) = 0 := by
  simp [F32.isBinary32]

/-- A binary32 magnitude is a multiple of the spacing around n, or a multiple of the spacing (the least
value of n's binade) lies between it and n. -/
theorem spacing_dvd_or_between {neg : Bool} {m : Nat} (n : Nat)
    (hm : (F32.fin neg m).isBinary32 = true) :
    2 ^ spacingExp n ∣ m * 2 ^ 149 ∨ ∃ b, 2 ^ spacingExp n ∣ b ∧ m * 2 ^ 149 < b ∧ b ≤ n := by
  rcases Nat.lt_or_ge n (2 ^ 172) with hn | hn
  · rw [spacingExp_of_lt hn]
    exact .inl (Nat.dvd_mul_left _ _)
  · have hlog := le_log2_of_normal hn
    rw [spacingExp_of_le hn]
    rcases Nat.lt_or_ge (m * 2 ^ 149) (2 ^ n.log2) with hlt | hge
    · exact .inr ⟨2 ^ n.log2, pow_dvd_pow 2 (Nat.sub_le _ _), hlt, Nat.log2_self_le (by omega)⟩
    · obtain ⟨-, hmod⟩ := isBinary32_fin.1 hm
      have hexp : n.log2 - 149 ≤ m.log2 := by
        have hpow : 2 ^ n.log2 = 2 ^ (n.log2 - 149) * 2 ^ 149 := by
          rw [← pow_add, Nat.sub_add_cancel (by omega)]
        rw [hpow] at hge
        have hle : 2 ^ (n.log2 - 149) ≤ m := Nat.le_of_mul_le_mul_right hge (by positivity)
        exact (Nat.le_log2 (Nat.pos_of_ne_zero (by rintro rfl; simp at hle)).ne').2 hle
      refine .inl ((pow_dvd_pow 2 (n := m.log2 - 23 + 149) (by omega)).trans ?_)
      rw [pow_add]
      exact Nat.mul_dvd_mul_right (Nat.dvd_of_mod_eq_zero hmod) _

/-- No binary32 magnitude is nearer than the rounded one, and a tie is decided for the even multiple of
the spacing (R159). -/
theorem roundMag_nearest {neg : Bool} {m : Nat} (n : Nat) (hm : (F32.fin neg m).isBinary32 = true) :
    ((roundMag n * 2 ^ 149 : Int) - n).natAbs ≤ ((m * 2 ^ 149 : Int) - n).natAbs ∧
    (m ≠ roundMag n →
      ((roundMag n * 2 ^ 149 : Int) - n).natAbs = ((m * 2 ^ 149 : Int) - n).natAbs →
      rne n (2 ^ spacingExp n) % 2 = 0) := by
  have hd : 0 < 2 ^ spacingExp n := by positivity
  have hmag : (roundMag n * 2 ^ 149 : Int) = rne n (2 ^ spacingExp n) * (2 ^ spacingExp n : Nat) :=
    mod_cast roundMag_mul_unit n
  have hunit : (m * 2 ^ 149 : Int) = (m * 2 ^ 149 : Nat) := by push_cast; rfl
  rw [hmag, hunit]
  rcases spacing_dvd_or_between n hm with hdvd | ⟨b, hdvd, hlt, hle⟩
  · obtain ⟨hnear, htie⟩ := rne_nearest (n := n) hd hdvd
    refine ⟨hnear, fun hne => htie fun heq => hne ?_⟩
    exact Nat.eq_of_mul_eq_mul_right (by positivity) (heq.trans (roundMag_mul_unit n).symm)
  · obtain ⟨hnear, -⟩ := rne_nearest (n := n) hd hdvd
    exact ⟨by omega, fun _ heq => by omega⟩

/-- A multiple of the spacing less than half a spacing away is the rounded magnitude (R159). -/
theorem roundMag_eq_of_near {n m : Nat} (hdvd : 2 ^ spacingExp n ∣ m * 2 ^ 149)
    (hnear : 2 * ((m * 2 ^ 149 : Int) - n).natAbs < 2 ^ spacingExp n) : roundMag n = m := by
  obtain ⟨hhalf, -⟩ := rne_within_half (n := n) (d := 2 ^ spacingExp n) (by positivity)
  refine Nat.eq_of_mul_eq_mul_right (show 0 < 2 ^ 149 by positivity) ?_
  rw [roundMag_mul_unit]
  by_contra hne
  have hgap := le_natAbs_sub_of_dvd (Nat.dvd_mul_left _ (rne n (2 ^ spacingExp n))) hdvd hne
  push_cast at *
  omega

/-! ### The significand -/

/-- Around n lie less than 2^24 spacings. -/
theorem lt_two_pow_spacingExp (n : Nat) : n < 2 ^ 24 * 2 ^ spacingExp n := by
  rw [← pow_add]
  rcases Nat.lt_or_ge n (2 ^ 172) with h | h
  · rw [spacingExp_of_lt h]
    exact h.trans (by norm_num)
  · have hlog := le_log2_of_normal h
    rw [spacingExp_of_le h, show 24 + (n.log2 - 23) = n.log2 + 1 by omega]
    exact Nat.lt_log2_self

theorem two_pow_spacingExp_le {n : Nat} (h : 2 ^ 172 ≤ n) : 2 ^ 23 * 2 ^ spacingExp n ≤ n := by
  have hlog := le_log2_of_normal h
  rw [spacingExp_of_le h, ← pow_add, Nat.add_sub_cancel' (by omega)]
  exact Nat.log2_self_le (by omega)

theorem lt_of_spacingExp_le {n e : Nat} (he : spacingExp n ≤ e) : n < 2 ^ 24 * 2 ^ e :=
  (lt_two_pow_spacingExp n).trans_le (Nat.mul_le_mul_left _ (pow_le_pow_right₀ one_le_two he))

theorem le_of_le_spacingExp {n e : Nat} (h : 2 ^ 172 ≤ n) (he : e ≤ spacingExp n) :
    2 ^ 23 * 2 ^ e ≤ n :=
  (Nat.mul_le_mul_left _ (pow_le_pow_right₀ one_le_two he)).trans (two_pow_spacingExp_le h)

theorem rne_spacing_le (n : Nat) : rne n (2 ^ spacingExp n) ≤ 2 ^ 24 :=
  rne_le_of_lt (lt_two_pow_spacingExp n)

/-- In the normal range the rounded magnitude has at least 24 bits. -/
theorem le_rne_of_normal {n : Nat} (h : 2 ^ 172 ≤ n) : 2 ^ 23 ≤ rne n (2 ^ spacingExp n) := by
  have hle := two_pow_spacingExp_le h
  exact (le_rne_iff (by positivity) (by norm_num)).2 (by omega)

/-- An even multiple of the spacing has an even significand: it is that multiple, or half of 2^24. -/
theorem significand_even {q e : Nat} (heven : q % 2 = 0) (hq : q ≤ 2 ^ 24)
    (hlead : e = 0 ∨ 2 ^ 23 ≤ q) : significand (q * 2 ^ e) % 2 = 0 := by
  rcases hq.eq_or_lt with rfl | hlt
  · rw [significand, ← pow_add, Nat.log2_two_pow, Nat.pow_div (by omega) (by norm_num),
      show 24 + e - (24 + e - 23) = 23 by omega]
  · have hlog : (q * 2 ^ e).log2 - 23 = e := by
      rcases hlead with rfl | hlead
      · rcases Nat.eq_zero_or_pos q with rfl | hpos
        · rfl
        · have hlow : q.log2 < 24 := (Nat.log2_lt hpos.ne').2 hlt
          rw [pow_zero, Nat.mul_one]
          omega
      · have hpos : q * 2 ^ e ≠ 0 := (Nat.mul_pos (by omega) (by positivity)).ne'
        have hlow : 23 + e ≤ (q * 2 ^ e).log2 :=
          (Nat.le_log2 hpos).2 (by rw [pow_add]; exact Nat.mul_le_mul_right _ hlead)
        have hhigh : (q * 2 ^ e).log2 < 24 + e :=
          (Nat.log2_lt hpos).2 (by rw [pow_add]; exact Nat.mul_lt_mul_of_pos_right hlt (by positivity))
        omega
    rw [significand, hlog, Nat.mul_div_cancel _ (by positivity)]
    exact heven

/-- Settles O29: both magnitudes are multiples of the spacing around n, or n's binade begins between
the other one and n; a tie is decided for the even multiple, whose significand is even. -/
theorem roundingPicksANearestValue : Obligations.RoundingPicksANearestValue := by
  intro n m hfin hm
  obtain ⟨hnear, htie⟩ := roundMag_nearest n hm
  have hround : round32 false n = .fin false (roundMag n) := if_neg (Nat.not_le.2 hfin)
  refine ⟨hround ▸ round32_isBinary32 false n, hnear, fun hne heq => ?_⟩
  refine significand_even (htie hne heq) (rne_spacing_le n) ?_
  rcases Nat.lt_or_ge n (2 ^ 172) with h | h
  · exact .inl (Nat.sub_eq_zero_of_le (spacingExp_of_lt h).le)
  · exact .inr (le_rne_of_normal h)

/-! ### The limits of R159 -/

theorem roundMag_of_isBinary32 {neg : Bool} {m : Nat} (hm : (F32.fin neg m).isBinary32 = true) :
    roundMag (m * 2 ^ 149) = m := by
  obtain ⟨hnear, -⟩ := roundMag_nearest (m * 2 ^ 149) hm
  rw [Nat.cast_mul, Nat.cast_pow, Nat.cast_ofNat, sub_self, Int.natAbs_zero, Nat.le_zero,
    Int.natAbs_eq_zero, sub_eq_zero] at hnear
  exact_mod_cast mul_right_cancel₀ (by positivity) hnear

theorem round32_of_isBinary32 {neg : Bool} {m : Nat} (hm : (F32.fin neg m).isBinary32 = true) :
    round32 neg (m * 2 ^ 149) = .fin neg m := by
  rw [round32, roundMag_of_isBinary32 hm, if_neg (Nat.not_le.2 (isBinary32_fin.1 hm).1)]

/-- Half the subnormal spacing rounds to the even 0. -/
theorem roundMag_eq_zero {n : Nat} : roundMag n = 0 ↔ n ≤ 2 ^ 148 := by
  have hzero : roundMag n = 0 ↔ rne n (2 ^ spacingExp n) = 0 := by simp [roundMag_eq_rne]
  rw [hzero]
  rcases Nat.lt_or_ge n (2 ^ 172) with h | h
  · rw [spacingExp_of_lt h, rne_eq_zero (by positivity)]
    omega
  · have hle := le_rne_of_normal h
    omega

/-- Half a spacing below 2^128 rounds to the even 2^24 spacings; the binades below stay below, and all
above is above. -/
theorem limit_le_roundMag {n : Nat} :
    F32.limit ≤ roundMag n ↔ (2 ^ 200 * 2 ^ 77 - 2 ^ 252) * 2 ^ 149 ≤ n := by
  have hlimit : F32.limit = 2 ^ 24 * 2 ^ 253 := by norm_num [F32.limit]
  have hbound : (2 ^ 200 * 2 ^ 77 - 2 ^ 252) * 2 ^ 149 = (2 ^ 25 - 1) * 2 ^ 401 := by
    rw [show 2 ^ 200 * 2 ^ 77 - 2 ^ 252 = (2 ^ 25 - 1) * 2 ^ 252 by norm_num, mul_assoc, ← pow_add]
  rw [hlimit, hbound, roundMag_eq_rne]
  rcases Nat.lt_trichotomy (spacingExp n) (401 + 1) with ht | ht | ht
  · have hmag : rne n (2 ^ spacingExp n) * 2 ^ (spacingExp n - 149) ≤ 2 ^ 24 * 2 ^ 252 :=
      Nat.mul_le_mul (rne_spacing_le n) (Nat.pow_le_pow_right (by norm_num) (by omega))
    have hexp : spacingExp n ≤ 401 := Nat.le_of_lt_succ ht
    have hn := lt_of_spacingExp_le hexp
    generalize 2 ^ 401 = u at hn ⊢
    exact iff_of_false (by omega) (by omega)
  · rw [ht, Nat.mul_le_mul_right_iff (by positivity), le_rne_iff (by positivity) (by norm_num),
      pow_succ 2 401]
    generalize 2 ^ 401 = u
    omega
  · have h : 2 ^ 172 ≤ n := Nat.le_of_not_lt fun hlt => by
      rw [spacingExp_of_lt hlt] at ht
      omega
    have hmag : 2 ^ 23 * 2 ^ 254 ≤ rne n (2 ^ spacingExp n) * 2 ^ (spacingExp n - 149) :=
      Nat.mul_le_mul (le_rne_of_normal h) (Nat.pow_le_pow_right (by norm_num) (by omega))
    have hexp : 401 + 2 ≤ spacingExp n := ht
    have hn := le_of_le_spacingExp h hexp
    rw [pow_add 2 401] at hn
    generalize 2 ^ 401 = u at hn ⊢
    exact iff_of_true (by omega) (by omega)

theorem round32_eq_inf {neg : Bool} {n : Nat} :
    round32 neg n = .inf neg ↔ F32.limit ≤ roundMag n := by
  unfold round32
  split_ifs with h <;> simp [h]

theorem round32_eq_zero {neg : Bool} {n : Nat} : round32 neg n = .fin neg 0 ↔ roundMag n = 0 := by
  have hlimit : 0 < F32.limit := by decide
  unfold round32
  split_ifs with h
  · exact iff_of_false nofun (by omega)
  · simp

/-- Settles O30: the two limits are where `roundMag` reaches 2^128 and leaves 0, and a binary32 value is
its own nearest one. -/
theorem roundingLimitsAndFixedPoints : Obligations.RoundingLimitsAndFixedPoints :=
  ⟨fun _ _ => round32_eq_inf.trans limit_le_roundMag, fun _ _ => round32_eq_zero.trans roundMag_eq_zero,
    fun _ _ hm => round32_of_isBinary32 hm⟩

end Sys2Proof.Machine

/-! ## Products, sums and multiply-accumulate steps -/

namespace Sys2Proof.Machine

/-! ### Which values are binary32 values -/

/-- A significand of at most 24 bits times a power of two is a binary32 magnitude below 2^128 (R155). -/
theorem isBinary32_of_significand (neg : Bool) {q e : Nat} (hq : q ≤ 2 ^ 24)
    (hlt : q * 2 ^ e < F32.limit) : (F32.fin neg (q * 2 ^ e)).isBinary32 = true :=
  isBinary32_fin.2 ⟨hlt, mul_two_pow_mod_spacing hq⟩

/-- Every integer up to 2^24 is a binary32 value (R155). -/
theorem isBinary32_of_integer (neg : Bool) {v : Nat} (hv : v ≤ 2 ^ 24) :
    (F32.fin neg (v * 2 ^ 149)).isBinary32 = true := by
  refine isBinary32_of_significand neg hv ?_
  rw [F32.limit]
  omega

theorem isBinary32_sign {neg : Bool} (neg' : Bool) {m : Nat}
    (hm : (F32.fin neg m).isBinary32 = true) : (F32.fin neg' m).isBinary32 = true :=
  isBinary32_fin.2 (isBinary32_fin.1 hm)

theorem u8ToF32_isBinary32 (s : Byte) : (u8ToF32 s).isBinary32 = true :=
  isBinary32_of_integer false (by omega)

theorem ofBits_isBinary32 (p : Word) : (F32.ofBits p).isBinary32 = true := by
  have hf := (p.extractLsb' 0 23).isLt
  have he := (p.extractLsb' 23 8).isLt
  simp only [F32.ofBits]
  split_ifs with hmax hzero hsub
  · rfl
  · rfl
  · rw [← Nat.mul_one (p.extractLsb' 0 23).toNat, ← pow_zero 2]
    exact isBinary32_of_significand _ (by omega) (by rw [F32.limit]; omega)
  · refine isBinary32_of_significand _ (by omega) ?_
    calc (2 ^ 23 + (p.extractLsb' 0 23).toNat) * 2 ^ ((p.extractLsb' 23 8).toNat - 1)
        ≤ (2 ^ 24 - 1) * 2 ^ 253 := Nat.mul_le_mul (by omega) (pow_le_pow_right₀ one_le_two (by omega))
      _ < F32.limit := by rw [F32.limit]; omega

/-- A product is a binary32 value whatever its operands. -/
theorem fmul32_isBinary32 (x y : F32) : (fmul32 x y).isBinary32 = true := by
  unfold fmul32
  split
  case h_1 | h_2 | h_3 => rfl
  case h_4 | h_5 => split_ifs <;> rfl
  case h_6 =>
    split_ifs
    · exact zero_isBinary32 _
    · exact round32_isBinary32 _ _

/-- Settles O31: patterns and samples have a significand of at most 24 bits; products and sums are
rounded, exact zeros or not finite. -/
theorem arithmeticStaysInBinary32 : Obligations.ArithmeticStaysInBinary32 :=
  ⟨ofBits_isBinary32, u8ToF32_isBinary32,
    fun x y _ _ => ⟨fmul32_isBinary32 x y, fadd32_isBinary32 x y⟩⟩

/-! ### Exact products and sums -/

/-- A product that is a binary32 value is exact (R163). -/
theorem fmul32_exact {sx sy : Bool} {mx my m : Nat} (hprod : mx * my = m * 2 ^ 149)
    (hm : (F32.fin (sx != sy) m).isBinary32 = true) :
    fmul32 (.fin sx mx) (.fin sy my) = .fin (sx != sy) m := by
  simp only [fmul32]
  split_ifs with hzero
  · have : m = 0 := by
      rcases hzero with rfl | rfl <;> simpa using hprod
    rw [this]
  · rw [hprod, round32_of_isBinary32 hm]

@[simp] theorem signedMag_false (m : Nat) : signedMag false m = m := rfl

@[simp] theorem signedMag_true (m : Nat) : signedMag true m = -m := rfl

@[simp] theorem signedMag_zero (neg : Bool) : signedMag neg 0 = 0 := by cases neg <;> rfl

@[simp] theorem natAbs_signedMag (neg : Bool) (m : Nat) : (signedMag neg m).natAbs = m := by
  cases neg <;> simp

theorem signedMag_lt_zero {neg : Bool} {m : Nat} (hm : m ≠ 0) :
    decide (signedMag neg m < 0) = neg := by
  cases neg
  · exact decide_eq_false (Int.not_lt.2 (Int.natCast_nonneg m))
  · simpa using Nat.pos_of_ne_zero hm

theorem signedMag_integer (x : Int) (u : Nat) :
    signedMag (decide (x < 0)) (x.natAbs * u) = x * u := by
  rcases lt_or_ge x 0 with h | h
  · rw [decide_eq_true h, signedMag_true, Nat.cast_mul, ← neg_mul, Int.ofNat_natAbs_of_nonpos h.le,
      neg_neg]
  · rw [decide_eq_false h.not_gt, signedMag_false, Nat.cast_mul, Int.natAbs_of_nonneg h]

/-- The sum of finite numbers that are not both zero is the rounded value of their exact sum (R164). -/
theorem fadd32_of_sum {sx sy : Bool} {mx my : Nat} {z : Int} (hne : ¬ (mx = 0 ∧ my = 0))
    (hz : signedMag sx mx + signedMag sy my = z) :
    fadd32 (.fin sx mx) (.fin sy my) = round32 (decide (z < 0)) (z.natAbs * 2 ^ 149) := by
  simp only [fadd32, if_neg hne, hz]
  split_ifs with hzero
  · simpa [hzero] using (round32_of_isBinary32 (zero_isBinary32 false)).symm
  · rfl

/-- A sum that is a binary32 value is exact; an exact zero is +0 (R164). -/
theorem fadd32_exact {sx sy : Bool} {mx my : Nat} {z : Int} (hne : ¬ (mx = 0 ∧ my = 0))
    (hz : signedMag sx mx + signedMag sy my = z) (hm : (F32.fin false z.natAbs).isBinary32 = true) :
    fadd32 (.fin sx mx) (.fin sy my) = .fin (decide (z < 0)) z.natAbs := by
  rw [fadd32_of_sum hne hz, round32_of_isBinary32 (isBinary32_sign _ hm)]

theorem fadd32_comm (x y : F32) : fadd32 x y = fadd32 y x := by
  cases x with
  | nan => cases y <;> rfl
  | inf sx =>
    cases y with
    | nan => rfl
    | inf sy => cases sx <;> cases sy <;> rfl
    | fin sy my => rfl
  | fin sx mx =>
    cases y with
    | nan => rfl
    | inf sy => rfl
    | fin sy my => simp only [fadd32, and_comm, Bool.and_comm, add_comm]

/-- Adding either zero leaves a binary32 value alone that is no zero (R164, R169 (c)). -/
theorem fadd32_zero {x : F32} (z : Bool) (hx : x.isBinary32 = true) (hne : ∀ neg, x ≠ .fin neg 0) :
    fadd32 x (.fin z 0) = x := by
  cases x with
  | nan | inf => rfl
  | fin neg m =>
    have hm : m ≠ 0 := by rintro rfl; exact hne neg rfl
    rw [fadd32_exact (z := signedMag neg m) (by simp [hm]) (by simp)
      (by rw [natAbs_signedMag]; exact isBinary32_sign _ hx), signedMag_lt_zero hm, natAbs_signedMag]

/-- Settles O32: every case of R164 is symmetric, and x + 0 is x exactly. -/
theorem additionIsCommutativeWithZeros : Obligations.AdditionIsCommutativeWithZeros :=
  ⟨fadd32_comm, fun _ z hx hne => fadd32_zero z hx hne⟩

/-! ### Integers -/

/-- A sum of integers is exact up to 2^24 in magnitude (R169 (e)). -/
theorem fadd32_integers {x y : Int} (hsum : (x + y).natAbs ≤ 2 ^ 24) :
    fadd32 (.fin (decide (x < 0)) (x.natAbs * 2 ^ 149)) (.fin (decide (y < 0)) (y.natAbs * 2 ^ 149)) =
      .fin (decide (x + y < 0)) ((x + y).natAbs * 2 ^ 149) := by
  by_cases hzero : x = 0 ∧ y = 0
  · obtain ⟨rfl, rfl⟩ := hzero
    simp [fadd32]
  · have hmag : ((x + y) * (2 ^ 149 : Nat)).natAbs = (x + y).natAbs * 2 ^ 149 := Int.natAbs_mul ..
    have hsign : decide ((x + y) * (2 ^ 149 : Nat) < 0) = decide (x + y < 0) :=
      decide_eq_decide.2 (by omega)
    rw [fadd32_exact (z := (x + y) * (2 ^ 149 : Nat)) (by omega)
      (by rw [signedMag_integer, signedMag_integer, add_mul])
      (hmag ▸ isBinary32_of_integer false hsum), hmag, hsign]

/-- The product of a sample and an integer weight is exact up to 2^24 (R169 (d)). -/
theorem fmul32_sample_integer (s : Byte) (neg : Bool) {v : Nat} (h : s.toNat * v ≤ 2 ^ 24) :
    fmul32 (u8ToF32 s) (.fin neg (v * 2 ^ 149)) = .fin neg (s.toNat * v * 2 ^ 149) := by
  have hexact := fmul32_exact (sx := false) (sy := neg) (mx := s.toNat * 2 ^ 149)
    (my := v * 2 ^ 149) (by ring) (isBinary32_of_integer _ h)
  rwa [Bool.false_bne] at hexact

/-- Settles O33: an integer up to 2^24 is a binary32 value, so its rounding is exact. -/
theorem integerArithmeticIsExact : Obligations.IntegerArithmeticIsExact :=
  ⟨fun _ _ _ _ hsum => fadd32_integers hsum, fun s _ neg h => fmul32_sample_integer s neg h.le⟩

/-! ### The corner cases of R173 -/

@[simp] theorem fadd32_nan_right (x : F32) : fadd32 x .nan = .nan := by cases x <;> rfl

@[simp] theorem fmul32_zeroSample_fin (neg : Bool) (m : Nat) :
    fmul32 (u8ToF32 0#8) (.fin neg m) = .fin neg 0 := by simp [fmul32, u8ToF32]

@[simp] theorem fmul32_zeroSample_inf (neg : Bool) : fmul32 (u8ToF32 0#8) (.inf neg) = .nan := by
  simp [fmul32, u8ToF32]

theorem fmul32_sample_inf {s : Byte} (hs : 0 < s.toNat) (neg : Bool) :
    fmul32 (u8ToF32 s) (.inf neg) = .inf neg := by
  simp only [fmul32, u8ToF32]
  rw [if_neg (by positivity), Bool.false_bne]

/-- A sample times the weight 1.0, added to +0, is the sample. -/
theorem macStep_zero_one (s : Byte) : macStep F32.zero s 0x3F800000#32 = u8ToF32 s := by
  have hs := s.isLt
  have hone : F32.ofBits 0x3F800000#32 = .fin false (1 * 2 ^ 149) := by decide
  have hprod := fmul32_sample_integer s false (v := 1) (by omega)
  have hsum := fadd32_integers (x := 0) (y := s.toNat) (by omega)
  have hsign : ¬ (s.toNat : Int) < 0 := by omega
  rw [macStep, hone, hprod]
  simpa [F32.zero, u8ToF32, hsign] using hsum

/-- The spacing on either side of 0.5 is more than 2^24 units, so what is nearer rounds to 0.5. -/
theorem roundMag_near_half {m : Nat} (hlow : 2 ^ 148 - 2 ^ 23 < m) (hhigh : m < 2 ^ 148 + 2 ^ 23) :
    roundMag (m * 2 ^ 149) = 2 ^ 148 := by
  have hnormal : 2 ^ 172 ≤ m * 2 ^ 149 := by omega
  have hfine : 173 ≤ spacingExp (m * 2 ^ 149) := by
    by_contra hlt
    have := lt_of_spacingExp_le (Nat.le_of_lt_succ (Nat.lt_of_not_le hlt))
    omega
  have hcoarse : spacingExp (m * 2 ^ 149) ≤ 148 + 149 := by
    by_contra hlt
    have hle := le_of_le_spacingExp hnormal (show 148 + 149 ≤ _ by omega)
    rw [pow_add 2 148 149] at hle
    omega
  refine roundMag_eq_of_near (by rw [← pow_add]; exact pow_dvd_pow 2 hcoarse) ?_
  calc 2 * ((((2 ^ 148 : Nat) * 2 ^ 149 : Int)) - (m * 2 ^ 149 : Nat)).natAbs
      < 2 ^ 173 := by omega
    _ ≤ 2 ^ spacingExp (m * 2 ^ 149) := pow_le_pow_right₀ one_le_two hfine

/-- A subnormal number is lost when it is added to 0.5. -/
theorem fadd32_half_subnormal (neg : Bool) {m : Nat} (hm : m < 2 ^ 23) :
    fadd32 (.fin false (2 ^ 148)) (.fin neg m) = .fin false (2 ^ 148) := by
  obtain ⟨z, hz, hnear⟩ : ∃ z : Nat, signedMag false (2 ^ 148) + signedMag neg m = z ∧
      2 ^ 148 - 2 ^ 23 < z ∧ z < 2 ^ 148 + 2 ^ 23 := by
    cases neg with
    | false => exact ⟨2 ^ 148 + m, by simp, by omega⟩
    | true => exact ⟨2 ^ 148 - m, by rw [signedMag_false, signedMag_true]; omega, by omega⟩
  have hsign : decide ((z : Int) < 0) = false := by simp
  rw [fadd32_of_sum (by simp) hz, hsign, Int.natAbs_natCast, round32,
    roundMag_near_half hnear.1 hnear.2]
  exact if_neg (by decide)

/-- Settles O34: with the sample 0 the product is a zero or a NaN, an infinite weight gives an infinite
product, and the two rows with a fixed weight or accumulator are exact or within half a spacing. -/
theorem macStepCornerCases : Obligations.MacStepCornerCases := by
  refine ⟨?_, ?_, ?_, ?_, ?_, ?_, ?_, macStep_zero_one, ?_⟩
  · rintro acc w neg m hacc ⟨sg, mg, rfl, hmg⟩ hw
    rw [macStep, hw, fmul32_zeroSample_fin]
    exact fadd32_zero neg hacc fun sg' h => hmg (by injection h)
  · intro sg neg m w hw
    rw [macStep, hw, fmul32_zeroSample_fin]
    rfl
  · intro acc w neg hw
    rw [macStep, hw, fmul32_zeroSample_inf, fadd32_nan_right]
  · intro sg mg s w hs hw
    rw [macStep, hw, fmul32_sample_inf hs]
    rfl
  · intro s w hs hw
    rw [macStep, hw, fmul32_sample_inf hs]
    rfl
  · intro acc s w hw
    rw [macStep, hw]
    exact fadd32_nan_right acc
  · exact fun s w => rfl
  · intro w neg m hw _ hm
    have hhalf : F32.ofBits 0x3F000000#32 = .fin false (2 ^ 148) := by decide
    have hprod : fmul32 (u8ToF32 1#8) (.fin neg m) = .fin neg m := by
      have hexact := fmul32_exact (sx := false) (sy := neg) (mx := (1#8).toNat * 2 ^ 149) (my := m)
        (m := m) (by simp [mul_comm]) (isBinary32_sign _ (hw ▸ ofBits_isBinary32 w))
      rwa [Bool.false_bne] at hexact
    rw [macStep, hw, hprod, hhalf, fadd32_half_subnormal neg hm]

end Sys2Proof.Machine

/-! ## The two accumulating micro-operations -/

namespace Sys2Proof.Machine

/-- The advance to the next tap with its conditions over the integers, as R205 and R209 write them. -/
theorem afterTap_eq_ite {k : Nat} {K : Int} (hK : K = k) (again : Phase) (q : Seq) :
    afterTap k again q =
      if q.b.toNat < K - 1 then { q with b := q.b + 1#7, phase := again }
      else if q.a.toNat < K - 1 then { q with a := q.a + 1#7, b := 0#7, phase := again }
      else { q with a := 0#7, b := 0#7, phase := .out } := by
  have hlt (m : Nat) : m + 1 < k ↔ (m : Int) < K - 1 := by omega
  simp only [afterTap, hlt]

section
variable {s : State} (hb : s.status.busy = true) (hk : s.tapWeight < Config.kmemDepth)
include hb hk

theorem execMac_enabled (hp : s.seq.phase = .mac) : execMac s =
    .next ((s.setAcc (macStep s.acc s.sample (s.kmemWord s.tapWeight))).setSeq
      (afterTap s.k .pad s.seq)) := by
  rw [execMac, whenEnabled_on _ hb hp, State.weight_of_lt hk]
  rfl

/-- An enabled `RED` keeps its phase for the next tap (R209). -/
theorem execRed_enabled (hp : s.seq.phase = .red)
    (hw : winHas s.seq.a.toNat s.seq.b.toNat s.seq.ch.toNat = true) : execRed s =
    .next ((s.setAcc (macStep s.acc (s.winByte s.seq.a.toNat s.seq.b.toNat s.seq.ch.toNat)
      (s.kmemWord s.tapWeight))).setSeq (afterTap s.k s.seq.phase s.seq)) := by
  rw [execRed, whenEnabled_on _ hb hp, State.weight_of_lt hk, hp]
  exact if_pos hw

end

/-- Settles O17: the enabled `MAC` reads the tap's weight and advances as R205 says. -/
theorem macAccumulatesTheLatchedSample : Obligations.MacAccumulatesTheLatchedSample := by
  intro s K hb hp hk hK
  have hexec : exec .mac s = execMac s := rfl
  rw [hexec, execMac_enabled hb (Nat.lt_succ_of_le hk) hp, afterTap_eq_ite (k := s.k) hK]
  rfl

/-- Settles O18: the enabled `RED` reads the tap's weight and window entry and advances as R209 says. -/
theorem redAccumulatesTheWindowSample : Obligations.RedAccumulatesTheWindowSample := by
  intro s K hb hp hk ha hb' hc hK
  have hexec : exec .red s = execRed s := rfl
  rw [hexec, execRed_enabled hb (Nat.lt_succ_of_le hk) hp (winHas_eq_true.2 ⟨ha, hb', hc⟩),
    afterTap_eq_ite (k := s.k) hK]
  rfl

end Sys2Proof.Machine

/-! ## Saturation to a sample, and `OUT` -/

namespace Sys2Proof.Machine

/-! ### The rounding of `sat8`: the nearest integer, the even one at a tie -/

section
variable (neg : Bool) (mag : Nat)

/-- `rint_even(x)` is at most one half away from x, and even when it is exactly one half away (R186). -/
theorem rintEven_within_half :
    2 * (rintEven neg mag * 2 ^ 149 - signedMag neg mag).natAbs ≤ 2 ^ 149 ∧
    (2 * (rintEven neg mag * 2 ^ 149 - signedMag neg mag).natAbs = 2 ^ 149 →
      rintEven neg mag % 2 = 0) := by
  have hrne := rne_within_half (n := mag) (d := 2 ^ 149) (by positivity)
  cases neg
  · rw [rintEven, signedMag_false, signedMag_false]
    omega
  · rw [rintEven, signedMag_true, signedMag_true]
    omega

variable {neg mag}

/-- An integer that lies as `rint_even(x)` must is `rint_even(x)`. -/
theorem rintEven_eq_of_nearest {z : Int} (hhalf : 2 * (signedMag neg mag - z * 2 ^ 149).natAbs ≤ 2 ^ 149)
    (htie : 2 * (signedMag neg mag - z * 2 ^ 149).natAbs = 2 ^ 149 → z % 2 = 0) :
    rintEven neg mag = z := by
  obtain ⟨hnear, heven⟩ := rintEven_within_half neg mag
  omega

/-- Two values in order that round the wrong way round would both be the tie between two neighbouring
integers, and both of these even. -/
theorem rintEven_mono {n1 n2 : Bool} {m1 m2 : Nat} (h : signedMag n1 m1 ≤ signedMag n2 m2) :
    rintEven n1 m1 ≤ rintEven n2 m2 := by
  obtain ⟨hnear1, heven1⟩ := rintEven_within_half n1 m1
  obtain ⟨hnear2, heven2⟩ := rintEven_within_half n2 m2
  omega

/-! ### `sat8` of a finite value -/

theorem sat8_fin_toNat (neg : Bool) (mag : Nat) :
    ((sat8 (.fin neg mag)).toNat : Int) = clamp (rintEven neg mag) 0 255 := by
  simp only [sat8, clamp, BitVec.toNat_ofNat]
  omega

theorem sat8_fin_of_clamp {n : Nat} (h : clamp (rintEven neg mag) 0 255 = n) :
    sat8 (.fin neg mag) = BitVec.ofNat 8 n := by
  rw [sat8, h, Int.toNat_natCast]

/-- A sample nearest to the value, and even at a tie, is what `sat8` gives (R190, R191). -/
theorem sat8_fin_of_nearest {n : Nat} (hn : n ≤ 255)
    (hhalf : 2 * (signedMag neg mag - n * 2 ^ 149).natAbs ≤ 2 ^ 149)
    (htie : 2 * (signedMag neg mag - n * 2 ^ 149).natAbs = 2 ^ 149 → n % 2 = 0) :
    sat8 (.fin neg mag) = BitVec.ofNat 8 n := by
  refine sat8_fin_of_clamp ?_
  rw [rintEven_eq_of_nearest hhalf (by omega), clamp]
  omega

/-- Up to 0.5, itself a tie with the even 0, the rounded value is not above 0 (R190). -/
theorem sat8_fin_of_le_half (h : signedMag neg mag ≤ 2 ^ 148) : sat8 (.fin neg mag) = 0#8 := by
  obtain ⟨hnear, heven⟩ := rintEven_within_half neg mag
  have hle : rintEven neg mag ≤ 0 := by omega
  refine sat8_fin_of_clamp (n := 0) ?_
  rw [clamp]
  omega

/-- Above 254.5 the rounded value is at least 255 (R190). -/
theorem sat8_fin_of_gt (h : 509 * 2 ^ 148 < signedMag neg mag) : sat8 (.fin neg mag) = 255#8 := by
  obtain ⟨hnear, -⟩ := rintEven_within_half neg mag
  have hge : 255 ≤ rintEven neg mag := by omega
  refine sat8_fin_of_clamp (n := 255) ?_
  rw [clamp]
  omega

theorem sat8_fin_of_near {n : Nat} (hn : n ≤ 255)
    (h : (signedMag neg mag - n * 2 ^ 149).natAbs < 2 ^ 148) :
    sat8 (.fin neg mag) = BitVec.ofNat 8 n :=
  sat8_fin_of_nearest hn (by omega) (by omega)

end

theorem sat8_fin_mono {n1 n2 : Bool} {m1 m2 : Nat} (h : signedMag n1 m1 ≤ signedMag n2 m2) :
    (sat8 (.fin n1 m1)).toNat ≤ (sat8 (.fin n2 m2)).toNat := by
  have hle := rintEven_mono h
  have h1 := sat8_fin_toNat n1 m1
  have h2 := sat8_fin_toNat n2 m2
  rw [clamp] at h1 h2
  omega

/-- A sample is an integer from 0 to 255, which rounding and clamping keep. -/
theorem sat8_u8ToF32 (s : Byte) : sat8 (u8ToF32 s) = s := by
  rw [u8ToF32, sat8_fin_of_near (Nat.le_of_lt_succ s.isLt) (by simp), BitVec.ofNat_toNat,
    BitVec.setWidth_eq]

theorem nvAfter_eq (x : F32) (nv : Bool) : nvAfter x nv = (nv || decide (x = .nan)) := by
  cases x <;> rfl

/-- Settles O35: the open ranges and the ties around n from 1 to 254 are where n is a nearest integer,
the even one at a tie. -/
theorem saturationByRanges : Obligations.SaturationByRanges := by
  refine ⟨rfl, rfl, ?_⟩
  rintro neg mag x rfl
  refine ⟨sat8_fin_of_le_half, fun n _ hn hlow hhigh => ?_, fun n _ hn heven htie => ?_,
    sat8_fin_of_gt⟩
  · exact sat8_fin_of_near (by omega) (by omega)
  · exact sat8_fin_of_nearest (by omega) (by omega) fun _ => heven

/-- Settles O36: rounding to the nearest integer keeps the order and every sample, and clamping keeps
both. -/
theorem saturationKeepsSamplesAndOrder : Obligations.SaturationKeepsSamplesAndOrder := by
  refine ⟨sat8_u8ToF32, fun _ _ _ _ => sat8_fin_mono, fun x => ⟨Nat.zero_le _, ?_⟩,
    fun _ _ _ => sat8_fin_of_near, fun neg => sat8_fin_of_le_half ?_, fun x nv => ?_⟩
  · exact Nat.le_of_lt_succ (sat8 x).isLt
  · rw [signedMag_zero]; positivity
  · rw [nvAfter_eq, Bool.or_eq_true, decide_eq_true_iff]

/-! ### `OUT` -/

/-- The state an enabled `OUT` advances from: `NV`, the stored sample and the cleared accumulator (R189). -/
def State.outStored (s : State) : State :=
  ((s.setStatus { s.status with nv := nvAfter s.acc s.status.nv }).setPmemByte s.outAddr
    (sat8 s.acc)).setAcc F32.zero

theorem execOut_enabled {s : State} (hb : s.status.busy = true) (hp : s.seq.phase = .out)
    (ha : s.outAddr < s.cfg.pmemBytes) : execOut s = .next (advanceOut s.outStored) := by
  rw [execOut, whenEnabled_on _ hb hp, State.memWrite_of_lt]
  · rfl
  · exact ha

theorem State.outAddr_eq (s : State) : s.outAddr =
    s.dstBase.toNat + (s.seq.j.toNat * s.width.toNat + s.seq.i.toNat) * (1 + 2 * s.ctrl.rgb.toNat) +
      s.seq.ch.toNat := by
  rw [← s.chans_eq]
  rfl

/-- The advance of `OUT` with its conditions over the integers, as R206, R210 and R212 write them. -/
theorem advanceOut_seq_status (s : State) {C W H : Int} (hC : C = s.chans) (hW : W = s.w) (hH : H = s.h) :
    ((advanceOut s).seq, (advanceOut s).status) =
      if s.seq.ch.toNat < C - 1 then
        ({ s.seq with ch := s.seq.ch + 1#2, phase := if s.ctrl.strat then .red else .pad }, s.status)
      else if s.seq.i.toNat < W - 1 then
        ({ s.seq with i := s.seq.i + 1#16, ch := 0#2, phase := if s.ctrl.strat then .fill else .pad },
          s.status)
      else if s.seq.j.toNat < H - 1 then
        ({ s.seq with
            j := s.seq.j + 1#16, i := 0#16, ch := 0#2, phase := if s.ctrl.strat then .fill else .pad },
          s.status)
      else (Seq.zero, { s.status with busy := false, done := true }) := by
  have hlt {m n : Nat} {N : Int} (hN : N = n) : (m : Int) < N - 1 ↔ m + 1 < n := by omega
  simp only [hlt hC, hlt hW, hlt hH, advanceOut, afterOut]
  split_ifs <;> rfl

/-- Settles O19: `OUT` stores, clears and sets `NV` before it advances, and the advance writes only
`seq` and `STATUS`. -/
theorem outStoresTheSampleAndAdvances : Obligations.OutStoresTheSampleAndAdvances := by
  rintro s C W H window hb hp ha hC hW hH rfl
  have hchans : C = s.outStored.chans := by
    rw [hC, State.chans_eq]
    push_cast
    rfl
  obtain ⟨_, _, _, hframe⟩ := advanceOut_frame s.outStored
  refine ⟨advanceOut s.outStored, execOut_enabled hb hp ha, fun x => ?_, ?_, ?_, ?_⟩
  · rw [← s.outAddr_eq, State.pmemByte_congr (advanceOut_pmem _)]
    exact State.pmemByte_setPmemByte ..
  · rw [hframe]
    rfl
  · rw [advanceOut_seq_status s.outStored hchans hW hH, ← nvAfter_eq]
    rfl
  · rw [hframe]
    rfl

end Sys2Proof.Machine

/-! ## The engine's turn, and that nothing faults -/

namespace Sys2Proof.Machine

/-- Settles O20: `IDLE` answers its own state, and each other micro-operation does unless it is enabled. -/
theorem engineChangesNothingUnlessEnabled : Obligations.EngineChangesNothingUnlessEnabled :=
  fun _ => ⟨rfl, whenEnabled_off _, whenEnabled_off _, whenEnabled_off _, whenEnabled_off _,
    whenEnabled_off _⟩

/-- Settles O23: listed or not, the turn is the engine's event at the state without it, which runs the
micro-operation `PHASE` names. -/
theorem engineTurnRunsThePhase : Obligations.EngineTurnRunsThePhase := by
  intro s t hturn
  obtain ⟨hstep, hstatus, hseq⟩ :
      step s = runEvent .engine t ∧ t.status = s.status ∧ t.seq = s.seq := by
    rcases hturn with ⟨he, rfl⟩ | ⟨rest, he, rfl⟩
    · exact ⟨step_nil he, rfl, rfl⟩
    · exact ⟨step_cons he, rfl, rfl⟩
  rw [← hstatus, ← hseq, hstep]
  refine ⟨runEvent_engine_idle, fun hb => ?_⟩
  rw [runEvent_engine_busy hb]
  refine ⟨?_, ?_, ?_, ?_, ?_, ?_⟩ <;>
    (intro hp
     rw [hp]
     rfl)

/-! ### The engine's step as a function -/

/-- The state an enabled `PAD` answers (R146). -/
def State.padNext (s : State) : State := (s.setSample s.tapSample).setSeq (afterPad s.seq)

/-- The state an enabled `MAC` answers (R166). -/
def State.macNext (s : State) : State :=
  (s.setAcc (macStep s.acc s.sample (s.kmemWord s.tapWeight))).setSeq (afterTap s.k .pad s.seq)

/-- The state an enabled `RED` answers (R167). -/
def State.redNext (s : State) : State :=
  (s.setAcc (macStep s.acc (s.winByte s.seq.a.toNat s.seq.b.toNat s.seq.ch.toNat)
    (s.kmemWord s.tapWeight))).setSeq (afterTap s.k .red s.seq)

/-- The state the engine's turn leaves while `BUSY` = 1 (R200). -/
def State.engineStep (s : State) : State :=
  match s.seq.phase with
  | .idle => s
  | .pad => s.padNext
  | .mac => s.macNext
  | .out => advanceOut s.outStored
  | .fill => s.fillNext
  | .red => s.redNext

section
variable {s : State} (h : s.Inv) (hb : s.status.busy = true)
include h hb

theorem State.Inv.tapWeight_lt : s.tapWeight < Config.kmemDepth := by
  have hweight : s.seq.b.toNat + s.k * s.seq.a.toNat < s.k * s.k :=
    Nat.add_mul_lt_mul_of_lt_of_lt (h.run hb).bRange (h.run hb).aRange
  have hsize : s.k * s.k ≤ 101 * 101 := Nat.mul_le_mul (h.k_le hb) (h.k_le hb)
  rw [State.tapWeight, Nat.add_comm, Nat.mul_comm, Config.kmemDepth]
  omega

theorem State.Inv.outAddr_lt : s.outAddr < s.cfg.pmemBytes := by
  obtain ⟨-, -, -, -, -, -, hdst, -⟩ := startCheck_eq_none.1 (h.run hb).checks
  exact (h.outAddr_inDest hb).2.trans_le hdst

/-- Under the invariant every access of the enabled micro-operation exists, so the turn answers. -/
theorem State.Inv.engineTurn_eq : Machine.runEvent .engine s = .next s.engineStep := by
  rw [runEvent_engine_busy hb]
  unfold State.engineStep
  cases hp : s.seq.phase with
  | idle => rfl
  | pad =>
    have hread : Machine.exec .pad s = Machine.execPad s := rfl
    rw [phaseInstr, hread, Machine.execPad, whenEnabled_on _ hb hp, State.memRead_of_lt (h.tapAddr_lt hb)]
    rfl
  | mac => exact execMac_enabled hb (h.tapWeight_lt hb) hp
  | out => exact execOut_enabled hb hp (h.outAddr_lt hb)
  | fill => exact h.execFill_eq hb hp
  | red =>
    have hred := execRed_enabled hb (h.tapWeight_lt hb) hp (h.winHas_seq hb)
    rwa [hp] at hred

end

/-! ### No move faults -/

/-- A move of the host or `rst` answers, or it is a pixel access outside `PMEM` and is refused (R63). -/
theorem hostMove_answers {e : Event} (s : State) (he : e ≠ .engine) :
    (∃ t, runEvent e s = .next t) ∨
    (∃ kind addr data, e = .px kind addr data ∧ s.cfg.pmemBytes ≤ addr.toNat ∧
      runEvent e s = .refused .hostAddress) := by
  cases e with
  | engine => exact absurd rfl he
  | rst => exact .inl ⟨_, rfl⟩
  | cmdw w => exact .inl ⟨_, runPacket_cmdw w s⟩
  | rx header d =>
    rw [runEvent_rx]
    obtain ⟨widx, rfl | rfl⟩ := rxHeader_cases header
    · obtain ⟨v, hread⟩ := runPacket_read widx d s
      exact .inl ⟨_, hread⟩
    · cases hd : decodeWrite widx d with
      | ok i =>
        obtain ⟨effect, hi⟩ := writeEffect_of_decodeWrite hd
        exact .inl ⟨_, (runPacket_ok s ((decode_write widx d).trans hd)).trans
          (exec_of_writeEffect i hi s)⟩
      | error r =>
        obtain ⟨-, rfl⟩ := decodeWrite_eq_error.1 hd
        exact .inl ⟨_, runPacket_error s ((decode_write widx d).trans hd)⟩
  | px kind addr data =>
    rcases Nat.lt_or_ge addr.toNat s.cfg.pmemBytes with ha | ha
    · left
      obtain rfl | rfl := BitVec.eq_zero_or_eq_one kind
      · exact ⟨_, (exec_prd addr s).trans (if_pos ha)⟩
      · exact ⟨_, (exec_pwr addr data s).trans (if_pos ha)⟩
    · refine .inr ⟨kind, addr, data, rfl, ha, ?_⟩
      obtain rfl | rfl := BitVec.eq_zero_or_eq_one kind
      · exact (exec_prd addr s).trans (if_neg (Nat.not_lt.2 ha))
      · exact (exec_pwr addr data s).trans (if_neg (Nat.not_lt.2 ha))

theorem State.Inv.runEvent_ne_fault {s : State} (h : s.Inv) (e : Event) (r : Fault) :
    Machine.runEvent e s ≠ .fault r := by
  by_cases he : e = .engine
  · subst he
    cases hb : s.status.busy with
    | false => simp [runEvent_engine_idle hb]
    | true => simp [h.engineTurn_eq hb]
  · rcases hostMove_answers s he with ⟨t, ht⟩ | ⟨_, _, _, -, -, ht⟩ <;> simp [ht]

theorem State.Inv.step_ne_fault {s : State} (h : s.Inv) (r : Fault) : step s ≠ .fault r := by
  rw [step_eq_runEvent]
  exact (h.setEvents _).runEvent_ne_fault _ r

/-- Settles O41: no step from a state of the invariant faults, and each keeps the invariant. -/
theorem noInterleavingFaults : Obligations.NoInterleavingFaults := by
  intro s n
  induction n generalizing s with
  | zero => exact id
  | succ n ih =>
    intro h
    cases hs : step s with
    | next t => exact run_succ hs ▸ ih t (everyStepKeepsTheInvariant s t h hs)
    | fault r => exact absurd hs (h.step_ne_fault r)
    | refused r =>
      have hstep : core.step s = .refused r := hs
      simp only [Host.Core.run, hstep, safeOutcome]

end Sys2Proof.Machine

/-! ## The samples of the destination -/

namespace Sys2Proof.Machine

/-- The number of the sample (i, j, c) in the order of a run: channel fastest, then column, then row
(R206, R210). -/
def State.sampleIndex (s : State) (i j c : Nat) : Nat := c + s.chans * (i + s.w * j)

/-- The triples of the image (R216). -/
def State.InImage (s : State) (i j c : Nat) : Prop := i < s.w ∧ j < s.h ∧ c < s.chans

theorem State.dstAddr_eq (s : State) (i j c : Nat) : s.dstAddr i j c = s.dst + s.sampleIndex i j c := by
  unfold State.dstAddr State.addr State.sampleIndex
  ring

/-- How many samples a run stores (R215). -/
theorem State.bufBytes_eq (s : State) : s.bufBytes = s.chans * (s.w * s.h) := by
  unfold State.bufBytes
  ring

section
variable {s : State} {i j c : Nat}

theorem State.InImage.sampleIndex_lt (h : s.InImage i j c) : s.sampleIndex i j c < s.bufBytes := by
  obtain ⟨hi, hj, hc⟩ := h
  rw [State.bufBytes_eq]
  exact Nat.add_mul_lt_mul_of_lt_of_lt hc (Nat.add_mul_lt_mul_of_lt_of_lt hi hj)

theorem State.InImage.eq_of_sampleIndex {i' j' c' : Nat} (h : s.InImage i j c) (h' : s.InImage i' j' c')
    (he : s.sampleIndex i j c = s.sampleIndex i' j' c') : i = i' ∧ j = j' ∧ c = c' := by
  obtain ⟨hpixel, hc⟩ := add_mul_inj h.2.2 h'.2.2 he
  obtain ⟨hj, hi⟩ := add_mul_inj h.1 h'.1 hpixel
  exact ⟨hi, hj, hc⟩

/-- Every number below W·H·C is some sample's: divide by C, then by W. -/
theorem State.exists_sampleIndex {n : Nat} (hn : n < s.bufBytes) :
    ∃ i j c, s.InImage i j c ∧ s.sampleIndex i j c = n := by
  rw [State.bufBytes_eq] at hn
  have hpixel : n / s.chans < s.w * s.h := Nat.div_lt_of_lt_mul hn
  have hw : 0 < s.w := Nat.pos_of_mul_pos_right (Nat.zero_lt_of_lt hpixel)
  refine ⟨n / s.chans % s.w, n / s.chans / s.w, n % s.chans,
    ⟨Nat.mod_lt _ hw, Nat.div_lt_of_lt_mul hpixel, Nat.mod_lt _ s.chans_pos⟩, ?_⟩
  rw [State.sampleIndex, Nat.mod_add_div, Nat.mod_add_div]

theorem State.inDest_iff {x : Nat} : s.inDest x ↔ ∃ i j c, s.InImage i j c ∧ s.dstAddr i j c = x := by
  simp only [State.dstAddr_eq]
  constructor
  · rintro ⟨hlow, hhigh⟩
    obtain ⟨i, j, c, hin, hindex⟩ := s.exists_sampleIndex (n := x - s.dst) (by omega)
    exact ⟨i, j, c, hin, by omega⟩
  · rintro ⟨i, j, c, hin, rfl⟩
    exact ⟨Nat.le_add_right _ _, Nat.add_lt_add_left hin.sampleIndex_lt _⟩

end

/-- Settles O38: `DstAddr` is the base plus the sample's number, which runs through 0 to W·H·C − 1 once. -/
theorem destinationAddressesAreABijection : Obligations.DestinationAddressesAreABijection := by
  refine fun s => ⟨fun x => ?_, fun i j c i' j' c' hi hj hc hi' hj' hc' he => ?_⟩
  · rw [State.inDest_iff]
    simp only [State.InImage, and_assoc]
  · rw [State.dstAddr_eq, State.dstAddr_eq] at he
    exact State.InImage.eq_of_sampleIndex ⟨hi, hj, hc⟩ ⟨hi', hj', hc'⟩ (Nat.add_left_cancel he)

end Sys2Proof.Machine

/-! ## Sums in progress -/

namespace Sys2Proof.Machine

/-- The sum of sample (i, j, c) after its first `n` taps (R168); tap m is (m / K, m mod K). -/
def State.accAfter (s : State) (i j c n : Nat) : F32 :=
  (List.range n).foldl
    (fun acc m => macStep acc (s.paddedSample i j c (m / s.k) (m % s.k)) (s.kmemWord m)) F32.zero

@[simp] theorem State.accAfter_zero (s : State) (i j c : Nat) : s.accAfter i j c 0 = F32.zero := rfl

theorem State.accAfter_succ (s : State) (i j c n : Nat) : s.accAfter i j c (n + 1) =
    macStep (s.accAfter i j c n) (s.paddedSample i j c (n / s.k) (n % s.k)) (s.kmemWord n) := by
  simp [State.accAfter, List.range_succ]

/-- The first `m` rows of taps are the first m·K numbers, each split by K. -/
theorem tapRows_eq (k m : Nat) :
    (List.range m).flatMap (fun a => (List.range k).map (fun b => (a, b))) =
      (List.range (m * k)).map fun n => (n / k, n % k) := by
  induction m with
  | zero => simp
  | succ m ih =>
    have hrow : ∀ b ∈ List.range k, (m, b) = ((m * k + b) / k, (m * k + b) % k) := by
      intro b hb
      have hbk := List.mem_range.1 hb
      have hk : 0 < k := Nat.zero_lt_of_lt hbk
      rw [Nat.mul_comm, Nat.mul_add_div hk, Nat.mul_add_mod, Nat.div_eq_of_lt hbk,
        Nat.mod_eq_of_lt hbk, Nat.add_zero]
    rw [List.range_succ, List.flatMap_append, ih, Nat.succ_mul, List.range_add, List.map_append,
      List.map_map, List.flatMap_singleton, List.map_congr_left hrow]
    rfl

theorem taps_eq (k : Nat) : taps k = (List.range (k ^ 2)).map fun n => (n / k, n % k) := by
  rw [taps, tapRows_eq, pow_two]

/-- After all K² taps the sum is `Acc(i, j, c)`. -/
theorem State.accAfter_all (s : State) (i j c : Nat) : s.accAfter i j c (s.k ^ 2) = s.convAcc i j c := by
  rw [State.convAcc, taps_eq, List.foldl_map, State.accAfter]
  simp only [Nat.mul_comm _ s.k, Nat.div_add_mod]

/-! ### What a run reads stays as it is -/

/-- `t` is a later state of the same run: it has the operands, weights and source bytes of `s` (R30, R74). -/
structure State.SameInputs (s t : State) : Prop where
  frame : ∃ status seq acc sample win pmem reply events, t = { s with
    status := status, seq := seq, acc := acc, sample := sample, win := win, pmem := pmem
    reply := reply, events := events }
  source : ∀ x, s.inSource x → t.pmemByte x = s.pmemByte x

theorem State.SameInputs.refl (s : State) : s.SameInputs s :=
  ⟨⟨_, _, _, _, _, _, _, _, rfl⟩, fun _ _ => rfl⟩

theorem State.SameInputs.trans {s t u : State} (h : s.SameInputs t) (h' : t.SameInputs u) :
    s.SameInputs u := by
  obtain ⟨⟨_, _, _, _, _, _, _, _, rfl⟩, hsrc⟩ := h
  obtain ⟨⟨_, _, _, _, _, _, _, _, rfl⟩, hsrc'⟩ := h'
  exact ⟨⟨_, _, _, _, _, _, _, _, rfl⟩, fun x hx => (hsrc' x hx).trans (hsrc x hx)⟩

section
variable {s t : State} (h : s.SameInputs t)
include h

/-- What does not look at the fields a run writes is the same in both states. -/
theorem State.SameInputs.congr {α : Sort*} (f : State → α)
    (hf : ∀ status seq acc sample win pmem reply events, f { s with
      status := status, seq := seq, acc := acc, sample := sample, win := win, pmem := pmem
      reply := reply, events := events } = f s) : f t = f s := by
  obtain ⟨⟨_, _, _, _, _, _, _, _, rfl⟩, -⟩ := h
  exact hf ..

theorem State.SameInputs.k : t.k = s.k := h.congr State.k fun _ _ _ _ _ _ _ _ => rfl

theorem State.SameInputs.bufBytes : t.bufBytes = s.bufBytes :=
  h.congr State.bufBytes fun _ _ _ _ _ _ _ _ => rfl

theorem State.SameInputs.runSteps : t.runSteps = s.runSteps :=
  h.congr State.runSteps fun _ _ _ _ _ _ _ _ => rfl

theorem State.SameInputs.sampleIndex (i j c : Nat) : t.sampleIndex i j c = s.sampleIndex i j c :=
  h.congr (·.sampleIndex i j c) fun _ _ _ _ _ _ _ _ => rfl

theorem State.SameInputs.dstAddr (i j c : Nat) : t.dstAddr i j c = s.dstAddr i j c :=
  h.congr (·.dstAddr i j c) fun _ _ _ _ _ _ _ _ => rfl

theorem State.SameInputs.inImage (i j c : Nat) : t.InImage i j c ↔ s.InImage i j c :=
  .of_eq (h.congr (·.InImage i j c) fun _ _ _ _ _ _ _ _ => rfl)

theorem State.SameInputs.inDest (x : Nat) : t.inDest x ↔ s.inDest x :=
  .of_eq (h.congr (·.inDest x) fun _ _ _ _ _ _ _ _ => rfl)

theorem State.SameInputs.quiet (e : Event) : t.quiet e ↔ s.quiet e :=
  .of_eq (h.congr (·.quiet e) fun _ _ _ _ _ _ _ _ => rfl)

/-- The taps of a sample of the image read source bytes, which are the same. -/
theorem State.SameInputs.paddedSample (hw : 0 < s.w) (hh : 0 < s.h) {c : Nat} (hc : c < s.chans)
    (i j a b : Nat) : t.paddedSample i j c a b = s.paddedSample i j c a b := by
  obtain ⟨⟨_, _, _, _, _, _, _, _, rfl⟩, hsrc⟩ := h
  exact hsrc _ (s.addr_mem_buffer s.src (clampCoord_lt _ hw) (clampCoord_lt _ hh) hc)

theorem State.SameInputs.accAfter (hw : 0 < s.w) (hh : 0 < s.h) {c : Nat} (hc : c < s.chans)
    (i j n : Nat) : t.accAfter i j c n = s.accAfter i j c n := by
  have hread := h.paddedSample hw hh hc i j
  obtain ⟨⟨_, _, _, _, _, _, _, _, rfl⟩, -⟩ := h
  unfold State.accAfter
  simp only [hread]
  rfl

theorem State.SameInputs.convAcc {i j c : Nat} (hin : s.InImage i j c) :
    t.convAcc i j c = s.convAcc i j c := by
  rw [← State.accAfter_all, ← State.accAfter_all, h.k]
  exact h.accAfter (Nat.zero_lt_of_lt hin.1) (Nat.zero_lt_of_lt hin.2.1) hin.2.2 i j _

end

end Sys2Proof.Machine

/-! ## How far a run is -/

namespace Sys2Proof.Machine

/-- The number of the current tap of a sample (R168). -/
def Seq.tap (k : Nat) (q : Seq) : Nat := q.b.toNat + k * q.a.toNat

/-- The number of the current pixel (R206, R210). -/
def Seq.pixel (w : Nat) (q : Seq) : Nat := q.i.toNat + w * q.j.toNat

/-- How many samples have been stored: while the window is filled none of the pixel's, and CH counts the
entries. -/
def Seq.samplesDone (w c : Nat) (q : Seq) : Nat :=
  (if q.phase = .fill then 0 else q.ch.toNat) + c * q.pixel w

/-- How many taps of the current sample have been accumulated. -/
def Seq.tapsDone (k : Nat) (q : Seq) : Nat :=
  match q.phase with
  | .pad | .mac | .red => q.tap k
  | .out => k ^ 2
  | .fill | .idle => 0

/-- How many `PAD` steps of the current sample have been made, with the direct strategy. -/
def Seq.padsDone (k : Nat) (q : Seq) : Nat :=
  match q.phase with
  | .pad => q.tap k
  | .mac => q.tap k + 1
  | .out | .fill | .red | .idle => k ^ 2

/-- How many samples have been read from `PMEM`: K² for each sample with the direct strategy, C·K² for
each pixel with the window (R208). -/
def Seq.readsDone (strat : Bool) (w c k : Nat) (q : Seq) : Nat :=
  if strat then (if q.phase = .fill then q.fillStep c k else c * k ^ 2) + c * k ^ 2 * q.pixel w
  else q.padsDone k + k ^ 2 * q.samplesDone w c

/-- How many engine steps of the run have been made: K² accumulating ones and one `OUT` for each sample
stored, those of the current sample, and the reads (R215). -/
def Seq.stepsDone (strat : Bool) (w c k : Nat) (q : Seq) : Nat :=
  (k ^ 2 + 1) * q.samplesDone w c + q.tapsDone k + q.readsDone strat w c k

theorem firstSeq_done (strat : Bool) (w c k : Nat) :
    (firstSeq strat).samplesDone w c = 0 ∧ (firstSeq strat).tapsDone k = 0 := by
  cases strat <;> simp [Seq.samplesDone, Seq.tapsDone, Seq.pixel, Seq.tap, firstSeq, Seq.zero]

theorem firstSeq_stepsDone (strat : Bool) (w c k : Nat) :
    (firstSeq strat).stepsDone strat w c k = 0 := by
  obtain ⟨hsamples, htaps⟩ := firstSeq_done strat w c k
  rw [Seq.stepsDone, Seq.readsDone, hsamples, htaps]
  cases strat <;>
    simp [Seq.padsDone, Seq.fillStep, fillIndex, Seq.pixel, Seq.tap, firstSeq, Seq.zero]

section
variable {strat : Bool} {w h c k : Nat} {q : Seq} (hq : q.InRange strat w h c k)
include hq

theorem Seq.InRange.tap_lt : q.tap k < k ^ 2 :=
  (pow_two k).symm ▸ Nat.add_mul_lt_mul_of_lt_of_lt hq.b hq.a

theorem Seq.InRange.pixel_lt : q.pixel w < w * h := Nat.add_mul_lt_mul_of_lt_of_lt hq.i hq.j

theorem Seq.InRange.samplesDone_lt : q.samplesDone w c < c * (w * h) := by
  have hch : (if q.phase = .fill then 0 else q.ch.toNat) < c := by
    split
    · exact Nat.zero_lt_of_lt hq.ch
    · exact hq.ch
  exact Nat.add_mul_lt_mul_of_lt_of_lt hch hq.pixel_lt

theorem Seq.InRange.tapsDone_le : q.tapsDone k ≤ k ^ 2 := by
  have := hq.tap_lt
  unfold Seq.tapsDone
  split <;> omega

theorem Seq.InRange.readsDone_le : q.readsDone strat w c k ≤ c * (w * h) * k ^ 2 := by
  unfold Seq.readsDone
  split
  · have hfill : (if q.phase = .fill then q.fillStep c k else c * k ^ 2) ≤ c * k ^ 2 := by
      split
      · exact hq.fillStep_lt.le
      · exact le_rfl
    calc _ ≤ c * k ^ 2 * (q.pixel w + 1) := by rw [Nat.mul_succ, Nat.add_comm]; omega
      _ ≤ c * k ^ 2 * (w * h) := Nat.mul_le_mul_left _ hq.pixel_lt
      _ = c * (w * h) * k ^ 2 := by ring
  · have hpads : q.padsDone k ≤ k ^ 2 := by
      have := hq.tap_lt
      unfold Seq.padsDone
      split <;> omega
    calc _ ≤ k ^ 2 * (q.samplesDone w c + 1) := by rw [Nat.mul_succ, Nat.add_comm]; omega
      _ ≤ k ^ 2 * (c * (w * h)) := Nat.mul_le_mul_left _ hq.samplesDone_lt
      _ = c * (w * h) * k ^ 2 := by ring

/-- A run that is still at a sample has steps to make (R215). -/
theorem Seq.InRange.stepsDone_lt : q.stepsDone strat w c k < c * (w * h) * (2 * k ^ 2 + 1) := by
  have htaps := hq.tapsDone_le
  have hreads := hq.readsDone_le
  have hsamples : (k ^ 2 + 1) * (q.samplesDone w c + 1) ≤ (k ^ 2 + 1) * (c * (w * h)) :=
    Nat.mul_le_mul_left _ hq.samplesDone_lt
  have htotal : c * (w * h) * (2 * k ^ 2 + 1) = (k ^ 2 + 1) * (c * (w * h)) + c * (w * h) * k ^ 2 := by
    ring
  rw [Seq.stepsDone, htotal]
  rw [Nat.mul_succ] at hsamples
  omega

/-- After a tap comes the next one, or after the last of the sample its `OUT` (R205, R209). -/
theorem Seq.InRange.afterTap_cases (hk : k ≤ 101) (again : Phase) :
    (q.tap k + 1 = k ^ 2 ∧ Machine.afterTap k again q = { q with a := 0#7, b := 0#7, phase := .out }) ∨
    ∃ a b, b.toNat + k * a.toNat = q.tap k + 1 ∧
      Machine.afterTap k again q = { q with a := a, b := b, phase := again } := by
  have ha0 := hq.a
  have hb0 := hq.b
  unfold Machine.afterTap Seq.tap
  split_ifs with hb ha
  · refine .inr ⟨_, _, ?_, rfl⟩
    rw [toNat_add_one (show q.b.toNat + 1 < 2 ^ 7 by omega)]
    omega
  · have hlast : k = q.b.toNat + 1 := by omega
    refine .inr ⟨_, _, ?_, rfl⟩
    rw [toNat_add_one (show q.a.toNat + 1 < 2 ^ 7 by omega), BitVec.toNat_ofNat, Nat.mul_succ]
    omega
  · have hlast : k = q.b.toNat + 1 := by omega
    have hsame : q.a.toNat = q.b.toNat := by omega
    refine .inl ⟨?_, rfl⟩
    rw [hsame, hlast]
    ring

omit hq in
theorem afterTap_ne_mac {again : Phase} (hagain : again ≠ .mac) :
    (Machine.afterTap k again q).phase ≠ .mac := by
  unfold Machine.afterTap
  split_ifs <;> simp [hagain]

/-- After an `OUT` that is not the last of the run comes the next channel of the pixel or the first one of
the next pixel, at the same tap (R206, R210). -/
theorem Seq.InRange.afterOut_some (hw : w < 2 ^ 16) (hh : h < 2 ^ 16) (hc : c ≤ 3) {q' : Seq}
    (hn : Machine.afterOut strat w h c q = some q') : q'.a = q.a ∧ q'.b = q.b ∧
    ((q'.ch.toNat = q.ch.toNat + 1 ∧ q'.i = q.i ∧ q'.j = q.j ∧
        q'.phase = if strat then .red else .pad) ∨
      (q.ch.toNat + 1 = c ∧ q'.ch.toNat = 0 ∧ q'.pixel w = q.pixel w + 1 ∧
        q'.phase = if strat then .fill else .pad)) := by
  have hch0 := hq.ch
  have hi0 := hq.i
  have hj0 := hq.j
  unfold Machine.afterOut at hn
  split at hn
  next hch =>
    cases hn
    exact ⟨rfl, rfl, .inl ⟨toNat_add_one (by omega), rfl, rfl, rfl⟩⟩
  split at hn
  next hi =>
    cases hn
    have hi' : (q.i + 1#16).toNat = q.i.toNat + 1 := toNat_add_one (by omega)
    refine ⟨rfl, rfl, .inr ⟨by omega, rfl, ?_, rfl⟩⟩
    rw [Seq.pixel, Seq.pixel, hi']
    exact Nat.add_right_comm _ _ _
  split at hn
  next hj =>
    cases hn
    have hj' : (q.j + 1#16).toNat = q.j.toNat + 1 := toNat_add_one (by omega)
    have hlast : w = q.i.toNat + 1 := by omega
    refine ⟨rfl, rfl, .inr ⟨by omega, rfl, ?_, rfl⟩⟩
    rw [Seq.pixel, Seq.pixel, hj', BitVec.toNat_zero, Nat.mul_succ]
    omega
  next => cases hn

/-- The last `OUT` is that of the last sample (R212). -/
theorem Seq.InRange.afterOut_none (hn : Machine.afterOut strat w h c q = none) :
    q.ch.toNat + 1 = c ∧ q.pixel w + 1 = w * h := by
  obtain ⟨hch, hi, hj⟩ := afterOut_eq_none.1 hn
  have hlastc : q.ch.toNat + 1 = c := Nat.le_antisymm hq.ch (Nat.not_lt.1 hch)
  have hlastw : w = q.i.toNat + 1 := Nat.le_antisymm (Nat.not_lt.1 hi) hq.i
  have hlasth : h = q.j.toNat + 1 := Nat.le_antisymm (Nat.not_lt.1 hj) hq.j
  refine ⟨hlastc, ?_⟩
  rw [Seq.pixel, hlastw, hlasth]
  ring

/-! ### Each micro-operation is one step -/

omit hq in
theorem Seq.samplesDone_afterPad (hp : q.phase = .pad) :
    (Machine.afterPad q).samplesDone w c = q.samplesDone w c := by
  simp [Seq.samplesDone, Machine.afterPad, hp, Seq.pixel]

omit hq in
theorem Seq.samplesDone_afterTap {again : Phase} (hagain : again ≠ .fill) (hp : q.phase ≠ .fill) :
    (Machine.afterTap k again q).samplesDone w c = q.samplesDone w c := by
  unfold Machine.afterTap
  split_ifs <;> simp [Seq.samplesDone, hagain, hp, Seq.pixel]

omit hq in
theorem Seq.samplesDone_afterFill (hp : q.phase = .fill) :
    (Machine.afterFill c k q).samplesDone w c = q.samplesDone w c := by
  unfold Machine.afterFill
  split_ifs <;> simp [Seq.samplesDone, hp, Seq.pixel]

theorem Seq.InRange.stepsDone_afterPad (hp : q.phase = .pad) :
    (Machine.afterPad q).stepsDone strat w c k = q.stepsDone strat w c k + 1 := by
  have hs := hq.direct (.inl hp)
  simp only [Seq.stepsDone, Seq.readsDone, Seq.samplesDone, Seq.tapsDone, Seq.padsDone, hs, hp,
    Machine.afterPad, Seq.pixel, Seq.tap, reduceCtorEq, if_false]
  ring

theorem Seq.InRange.stepsDone_afterMac (hk : k ≤ 101) (hp : q.phase = .mac) :
    (Machine.afterTap k .pad q).stepsDone strat w c k = q.stepsDone strat w c k + 1 := by
  have hs := hq.direct (.inr hp)
  rcases hq.afterTap_cases hk .pad with ⟨hlast, he⟩ | ⟨a, b, hnext, he⟩ <;>
    simp only [he, Seq.stepsDone, Seq.readsDone, Seq.samplesDone, Seq.tapsDone, Seq.padsDone, hs, hp,
      Seq.pixel, reduceCtorEq, if_false]
  · omega
  · rw [Seq.tap, hnext]
    omega

theorem Seq.InRange.stepsDone_afterRed (hk : k ≤ 101) (hp : q.phase = .red) :
    (Machine.afterTap k .red q).stepsDone strat w c k = q.stepsDone strat w c k + 1 := by
  have hs := hq.window (.inr hp)
  rcases hq.afterTap_cases hk .red with ⟨hlast, he⟩ | ⟨a, b, hnext, he⟩ <;>
    simp only [he, Seq.stepsDone, Seq.readsDone, Seq.samplesDone, Seq.tapsDone, hs, hp,
      Seq.pixel, reduceCtorEq, if_false, if_true]
  · omega
  · rw [Seq.tap, hnext]
    omega

theorem Seq.InRange.stepsDone_afterFill (hc : c ≤ 3) (hk : k ≤ 101) (hp : q.phase = .fill) :
    (Machine.afterFill c k q).stepsDone strat w c k = q.stepsDone strat w c k + 1 := by
  have hs := hq.window (.inl hp)
  rcases hq.afterFill_cases hc hk with ⟨hlast, he⟩ | ⟨hnext, a, b, ch, he⟩
  · simp only [he, Seq.firstRed, Seq.stepsDone, Seq.readsDone, Seq.samplesDone, Seq.tapsDone, hs, hp,
      Seq.pixel, Seq.tap, reduceCtorEq, if_false, if_true, BitVec.toNat_zero]
    omega
  · have hp' : (Machine.afterFill c k q).phase = .fill := by rw [he, hp]
    have hpixel : (Machine.afterFill c k q).pixel w = q.pixel w := by rw [he, Seq.pixel, Seq.pixel]
    simp only [Seq.stepsDone, Seq.readsDone, Seq.samplesDone, Seq.tapsDone, hs, hp, hp', hnext, hpixel,
      if_true]
    omega

section
variable (hw : w < 2 ^ 16) (hh : h < 2 ^ 16) (hc : c ≤ 3) (hp : q.phase = .out) {q' : Seq}
  (hn : Machine.afterOut strat w h c q = some q')
include hw hh hc hp hn

theorem Seq.InRange.samplesDone_afterOut : q'.samplesDone w c = q.samplesDone w c + 1 := by
  rw [Seq.samplesDone, Seq.samplesDone, if_neg (show q.phase ≠ .fill by simp [hp])]
  rcases hq.afterOut_some hw hh hc hn with
    ⟨-, -, ⟨hch, hi, hj, hphase⟩ | ⟨hlast, hch, hpixel, -⟩⟩
  · have hfill : q'.phase ≠ .fill := by cases strat <;> simp [hphase]
    rw [if_neg hfill, hch, Seq.pixel, Seq.pixel, hi, hj]
    omega
  · rw [hch, ite_self, hpixel, Nat.mul_succ]
    omega

/-- The next sample starts at its first tap. -/
theorem Seq.InRange.tapsDone_afterOut : q'.tapsDone k = 0 := by
  obtain ⟨ha, hb⟩ := hq.outTap hp
  rcases hq.afterOut_some hw hh hc hn with
    ⟨ha', hb', ⟨-, -, -, hphase⟩ | ⟨-, -, -, hphase⟩⟩ <;>
    cases strat <;> simp [Seq.tapsDone, Seq.tap, hphase, ha', hb', ha, hb]

/-- The direct strategy has read all K² taps of each sample it has stored, the window strategy all of the
window of each pixel it is done with. -/
theorem Seq.InRange.readsDone_afterOut : q'.readsDone strat w c k = q.readsDone strat w c k := by
  obtain ⟨ha, hb⟩ := hq.outTap hp
  have hsamples := hq.samplesDone_afterOut hw hh hc hp hn
  obtain ⟨ha', hb', hnext⟩ := hq.afterOut_some hw hh hc hn
  cases strat with
  | false =>
    have hphase : q'.phase = .pad := by rcases hnext with ⟨-, -, -, h⟩ | ⟨-, -, -, h⟩ <;> exact h
    simp only [Seq.readsDone, Seq.padsDone, hp, hphase, Seq.tap, ha', hb', ha, hb, hsamples,
      Bool.false_eq_true, if_false, BitVec.toNat_zero]
    ring
  | true =>
    rcases hnext with ⟨hch, hi, hj, hphase⟩ | ⟨hlast, hch, hpixel, hphase⟩
    · simp [Seq.readsDone, hp, hphase, Seq.pixel, hi, hj]
    · simp only [Seq.readsDone, hp, hphase, Seq.fillStep, fillIndex, hpixel, ha', hb', ha, hb, hch,
        reduceCtorEq, if_true, if_false, BitVec.toNat_zero]
      ring

theorem Seq.InRange.stepsDone_afterOut : q'.stepsDone strat w c k = q.stepsDone strat w c k + 1 := by
  have hdone : q.tapsDone k = k ^ 2 := by rw [Seq.tapsDone, hp]
  rw [Seq.stepsDone, Seq.stepsDone, hq.samplesDone_afterOut hw hh hc hp hn,
    hq.tapsDone_afterOut hw hh hc hp hn, hq.readsDone_afterOut hw hh hc hp hn, hdone]
  ring

end

theorem Seq.InRange.samplesDone_last (hp : q.phase = .out)
    (hn : Machine.afterOut strat w h c q = none) : q.samplesDone w c + 1 = c * (w * h) := by
  obtain ⟨hch, hpixel⟩ := hq.afterOut_none hn
  rw [Seq.samplesDone, if_neg (show q.phase ≠ .fill by simp [hp]), ← hpixel, Nat.mul_succ]
  omega

theorem Seq.InRange.stepsDone_last (hp : q.phase = .out)
    (hn : Machine.afterOut strat w h c q = none) :
    q.stepsDone strat w c k + 1 = c * (w * h) * (2 * k ^ 2 + 1) := by
  have hsamples := hq.samplesDone_last hp hn
  have hdone : q.tapsDone k = k ^ 2 := by rw [Seq.tapsDone, hp]
  have hreads : q.readsDone strat w c k = k ^ 2 * (q.samplesDone w c + 1) := by
    cases strat with
    | false =>
      simp only [Seq.readsDone, Seq.padsDone, hp, Bool.false_eq_true, if_false]
      ring
    | true =>
      rw [hsamples, ← (hq.afterOut_none hn).2]
      simp only [Seq.readsDone, hp, reduceCtorEq, if_true, if_false]
      ring
  rw [Seq.stepsDone, hreads, hdone, ← hsamples]
  ring

end

end Sys2Proof.Machine

/-! ## What the engine holds during a run -/

namespace Sys2Proof.Machine

/-- How many samples the run has stored. -/
def State.samplesDone (t : State) : Nat := t.seq.samplesDone t.w t.chans

/-- How many engine steps of the run have been made. -/
def State.stepsDone (t : State) : Nat := t.seq.stepsDone t.ctrl.strat t.w t.chans t.k

/-- The sum of the taps of the current sample that have been accumulated. -/
def State.partialSum (t : State) : F32 :=
  t.accAfter t.seq.i.toNat t.seq.j.toNat t.seq.ch.toNat (t.seq.tapsDone t.k)

/-- The hidden state during a run: `ACC` is the sum of the taps done, `S` the sample `PAD` has latched, and
the window holds the entries filled so far, all of them once it is being reduced (R208, R213). -/
structure State.Working (t : State) : Prop where
  acc : t.acc = t.partialSum
  sample : t.seq.phase = .mac → t.sample = t.tapSample
  window : t.ctrl.strat = true → ∀ a b c, a < t.k → b < t.k → c < t.chans →
    (t.seq.phase = .fill → fillIndex t.chans t.k a b c < t.seq.fillStep t.chans t.k) →
    t.winByte a b c = t.paddedSample t.seq.i.toNat t.seq.j.toNat c a b

theorem State.partialSum_of_tapsDone_zero {t : State} (h : t.seq.tapsDone t.k = 0) :
    t.partialSum = F32.zero := by rw [State.partialSum, h, State.accAfter_zero]

theorem State.partialSum_of_out {t : State} (hp : t.seq.phase = .out) :
    t.partialSum = t.convAcc t.seq.i.toNat t.seq.j.toNat t.seq.ch.toNat := by
  rw [State.partialSum, Seq.tapsDone, hp, State.accAfter_all]

theorem State.engineStep_of_out {t : State} (hp : t.seq.phase = .out) :
    t.engineStep = advanceOut t.outStored := by rw [State.engineStep, hp]

theorem State.advanceOut_of_some {t : State} {q : Seq}
    (hn : afterOut t.ctrl.strat t.w t.h t.chans t.seq = some q) :
    advanceOut t.outStored = t.outStored.setSeq q := by
  rcases advanceOut_cases t.outStored with ⟨q', hn', ha⟩ | ⟨hn', -⟩ <;> cases hn.symm.trans hn'
  exact ha

theorem State.advanceOut_of_none {t : State}
    (hn : afterOut t.ctrl.strat t.w t.h t.chans t.seq = none) :
    advanceOut t.outStored = (t.outStored.setSeq Seq.zero).setStatus
      { t.outStored.status with busy := false, done := true } := by
  rcases advanceOut_cases t.outStored with ⟨q', hn', -⟩ | ⟨-, ha⟩
  · cases hn.symm.trans hn'
  · exact ha

section
variable {t : State} (h : t.Inv) (hb : t.status.busy = true)
include h hb

theorem State.Inv.inImage : t.InImage t.seq.i.toNat t.seq.j.toNat t.seq.ch.toNat :=
  ⟨(h.run hb).iRange, (h.run hb).jRange, (h.run hb).chRange⟩

/-- The engine's turn leaves the operands, the weights and the source as they are (R74). -/
theorem State.Inv.sameInputs_engineStep : t.SameInputs t.engineStep := by
  have hturn := h.engineTurn_eq hb
  refine ⟨?_, fun x hx => engineTurn_pmemByte_of_not_inDest h hturn (h.not_inDest_of_inSource hb hx)⟩
  obtain ⟨_, _, _, _, _, _, _, _, he⟩ := engineTurn_frame hturn
  exact ⟨_, _, _, _, _, _, _, _, he⟩

/-- `MAC` and `RED` add the current tap, which is number A·K + B, and go to the next tap or to `OUT`. -/
theorem State.Inv.partialSum_afterTap {again : Phase} (hagain : again = .pad ∨ again = .red)
    (hdone : t.seq.tapsDone t.k = t.seq.tap t.k) (x : F32) :
    ((t.setAcc x).setSeq (Machine.afterTap t.k again t.seq)).partialSum =
      macStep t.partialSum t.tapSample (t.kmemWord t.tapWeight) := by
  have hbk := (h.run hb).bRange
  have hk : 0 < t.k := Nat.zero_lt_of_lt hbk
  have hdiv : t.seq.tap t.k / t.k = t.seq.a.toNat := by
    rw [Seq.tap, Nat.add_mul_div_left _ _ hk, Nat.div_eq_of_lt hbk, Nat.zero_add]
  have hmod : t.seq.tap t.k % t.k = t.seq.b.toNat := by
    rw [Seq.tap, Nat.add_mul_mod_self_left, Nat.mod_eq_of_lt hbk]
  have hweight : t.tapWeight = t.seq.tap t.k := by
    rw [State.tapWeight, Seq.tap, Nat.add_comm, Nat.mul_comm]
  have hsum : t.partialSum = t.accAfter t.seq.i.toNat t.seq.j.toNat t.seq.ch.toNat (t.seq.tap t.k) := by
    rw [State.partialSum, hdone]
  have hsucc : macStep t.partialSum t.tapSample (t.kmemWord t.tapWeight) =
      t.accAfter t.seq.i.toNat t.seq.j.toNat t.seq.ch.toNat (t.seq.tap t.k + 1) := by
    rw [State.accAfter_succ, hdiv, hmod, hsum, hweight, State.tapSample]
  rw [hsucc]
  rcases (h.seq_inRange hb).afterTap_cases (h.k_le hb) again with ⟨hlast, he⟩ | ⟨a, b, hnext, he⟩ <;>
    rw [he]
  · exact congrArg (t.accAfter _ _ _) hlast.symm
  · rcases hagain with rfl | rfl <;> exact congrArg (t.accAfter _ _ _) hnext

theorem State.Working.padNext (hp : t.seq.phase = .pad) (hw : t.Working) : t.padNext.Working where
  acc := by
    have hacc := hw.acc
    rw [State.partialSum, Seq.tapsDone, hp] at hacc
    exact hacc
  sample _ := rfl
  window hs := by cases ((h.run hb).direct (.inl hp)).symm.trans hs

theorem State.Working.macNext (hp : t.seq.phase = .mac) (hw : t.Working) : t.macNext.Working where
  acc := by
    have hdone : t.seq.tapsDone t.k = t.seq.tap t.k := by rw [Seq.tapsDone, hp]
    rw [State.macNext, h.partialSum_afterTap hb (.inl rfl) hdone, ← hw.acc, ← hw.sample hp]
    rfl
  sample hmac := absurd hmac (afterTap_ne_mac (by decide))
  window hs := by cases ((h.run hb).direct (.inr hp)).symm.trans hs

/-- `RED` takes from the window the sample `PAD` would have read. -/
theorem State.Working.redNext (hp : t.seq.phase = .red) (hw : t.Working) : t.redNext.Working where
  acc := by
    have hdone : t.seq.tapsDone t.k = t.seq.tap t.k := by rw [Seq.tapsDone, hp]
    have hsample : t.winByte t.seq.a.toNat t.seq.b.toNat t.seq.ch.toNat = t.tapSample :=
      hw.window ((h.run hb).window (.inr hp)) _ _ _ (h.run hb).aRange (h.run hb).bRange
        (h.run hb).chRange (by simp [hp])
    rw [State.redNext, h.partialSum_afterTap hb (.inr rfl) hdone, ← hw.acc, ← hsample]
    rfl
  sample hmac := absurd hmac (afterTap_ne_mac (by decide))
  window hs a b c ha hb' hc hfill := by
    have hwin := hw.window hs a b c ha hb' hc (by simp [hp])
    rcases (h.seq_inRange hb).afterTap_cases (h.k_le hb) .red with ⟨-, he⟩ | ⟨_, _, -, he⟩ <;>
      rw [State.redNext, he] <;> exact hwin

/-- `FILL` adds its own entry to the ones filled before it. -/
theorem State.Working.fillNext (hp : t.seq.phase = .fill) (hw : t.Working) : t.fillNext.Working := by
  have hrange := h.seq_inRange hb
  have hs : t.ctrl.strat = true := (h.run hb).window (.inl hp)
  have hacc : t.acc = F32.zero := h.accFresh (.inr (.inl hp))
  have hwin {a b c : Nat} (ha : a < t.k) (hb' : b < t.k) (hc : c < t.chans)
      (hle : fillIndex t.chans t.k a b c ≤ t.seq.fillStep t.chans t.k) :
      t.fillNext.winByte a b c = t.paddedSample t.seq.i.toNat t.seq.j.toNat c a b := by
    rw [State.fillNext_winByte (h.winHas_seq hb) (h.winHas_of_lt hb ha hb' hc)]
    split_ifs with hentry
    · rfl
    · refine hw.window hs a b c ha hb' hc fun _ => lt_of_le_of_ne hle fun he => hentry ?_
      exact fillIndex_inj hb' hrange.b hc hrange.ch he
  have hseq : t.fillNext.seq = afterFill t.chans t.k t.seq := rfl
  rcases hrange.afterFill_cases t.chans_le (h.k_le hb) with ⟨hlast, he⟩ | ⟨hnext, a', b', ch', he⟩ <;>
    rw [he] at hseq
  · have hdone : t.fillNext.seq.tapsDone t.k = 0 := by simp [hseq, Seq.firstRed, Seq.tapsDone, Seq.tap]
    refine ⟨hacc.trans (State.partialSum_of_tapsDone_zero hdone).symm, by simp [hseq, Seq.firstRed],
      fun _ a b c ha hb' hc _ => ?_⟩
    have hlt : fillIndex t.chans t.k a b c < t.chans * t.k ^ 2 := fillIndex_lt ha hb' hc
    rw [hseq]
    exact hwin ha hb' hc (by omega)
  · have hp' : t.fillNext.seq.phase = .fill := by rw [hseq, hp]
    have hdone : t.fillNext.seq.tapsDone t.k = 0 := by rw [Seq.tapsDone, hp']
    refine ⟨hacc.trans (State.partialSum_of_tapsDone_zero hdone).symm, by simp [hp'],
      fun _ a b c ha hb' hc hfilled => ?_⟩
    have hlt : fillIndex t.chans t.k a b c < (afterFill t.chans t.k t.seq).fillStep t.chans t.k :=
      hfilled hp'
    rw [hseq]
    exact hwin ha hb' hc (by omega)

/-- After `OUT` the next sample starts at +0; for another channel of the pixel the window stays. -/
theorem State.Working.outNext (hp : t.seq.phase = .out) (hw : t.Working) {q : Seq}
    (hn : afterOut t.ctrl.strat t.w t.h t.chans t.seq = some q) : (t.outStored.setSeq q).Working := by
  have hrange := h.seq_inRange hb
  have hin : t.SameInputs (t.outStored.setSeq q) := by
    rw [← State.advanceOut_of_some hn, ← State.engineStep_of_out hp]
    exact h.sameInputs_engineStep hb
  have hdone : q.tapsDone t.k = 0 :=
    hrange.tapsDone_afterOut t.width.isLt t.height.isLt t.chans_le hp hn
  obtain ⟨ha', hb', hnext⟩ := hrange.afterOut_some t.width.isLt t.height.isLt t.chans_le hn
  refine ⟨(State.partialSum_of_tapsDone_zero hdone).symm, fun hmac => ?_,
    fun hs a b c ha hb hc hfill => ?_⟩
  · have hq : q.phase = .mac := hmac
    rcases hnext with ⟨-, -, -, hphase⟩ | ⟨-, -, -, hphase⟩ <;>
      (rw [hphase] at hq
       split at hq <;> cases hq)
  · have hs' : t.ctrl.strat = true := hs
    rcases hnext with ⟨-, hi, hj, -⟩ | ⟨-, hch, -, hphase⟩
    · rw [hin.paddedSample (Nat.zero_lt_of_lt hrange.i) (Nat.zero_lt_of_lt hrange.j) hc, State.setSeq_seq,
        hi, hj]
      exact hw.window hs a b c ha hb hc (by simp [hp])
    · have hstart : q.fillStep t.chans t.k = 0 := by
        obtain ⟨ha0, hb0⟩ := hrange.outTap hp
        simp [Seq.fillStep, fillIndex, ha', hb', ha0, hb0, hch]
      have hlt : fillIndex t.chans t.k a b c < q.fillStep t.chans t.k := hfill (by simp [hphase, hs'])
      omega

end

end Sys2Proof.Machine

/-! ## What the run has done for the host to see -/

namespace Sys2Proof.Machine

/-- The first `n` samples of the run that began in `s` are stored in `t`, and `NV` speaks of them (R220). -/
structure Outputs (s : State) (n : Nat) (t : State) : Prop where
  stored : ∀ i j c, s.InImage i j c → s.sampleIndex i j c < n →
    t.pmemByte (s.dstAddr i j c) = sat8 (s.convAcc i j c)
  nv : t.status.nv = true ↔
    ∃ i j c, s.InImage i j c ∧ s.sampleIndex i j c < n ∧ s.convAcc i j c = .nan

theorem Outputs.zero {s : State} (hnv : s.status.nv = false) : Outputs s 0 s where
  stored _ _ _ _ h := absurd h (Nat.not_lt_zero _)
  nv := by simp [hnv]

section
variable {s t u : State} {n : Nat} (h : Outputs s n t)
include h

theorem Outputs.of_same (hp : ∀ x, s.inDest x → u.pmemByte x = t.pmemByte x)
    (hnv : u.status.nv = t.status.nv) : Outputs s n u where
  stored i j c hin hlt := (hp _ (State.inDest_iff.2 ⟨i, j, c, hin, rfl⟩)).trans (h.stored i j c hin hlt)
  nv := hnv ▸ h.nv

/-- `OUT` stores the next sample. -/
theorem Outputs.succ {i j c : Nat} (hin : s.InImage i j c) (hn : s.sampleIndex i j c = n)
    (hp : ∀ x, u.pmemByte x = if x = s.dstAddr i j c then sat8 (s.convAcc i j c) else t.pmemByte x)
    (hnv : u.status.nv = nvAfter (s.convAcc i j c) t.status.nv) : Outputs s (n + 1) u where
  stored i' j' c' hin' hlt := by
    rw [hp]
    split_ifs with haddr
    · rw [State.dstAddr_eq, State.dstAddr_eq] at haddr
      obtain ⟨rfl, rfl, rfl⟩ := hin'.eq_of_sampleIndex hin (Nat.add_left_cancel haddr)
      rfl
    · refine h.stored i' j' c' hin' (lt_of_le_of_ne (Nat.le_of_lt_succ hlt) fun he => haddr ?_)
      rw [State.dstAddr_eq, State.dstAddr_eq, he, hn]
  nv := by
    rw [hnv, nvAfter_eq, Bool.or_eq_true, h.nv, decide_eq_true_iff]
    constructor
    · rintro (⟨i', j', c', hin', hlt, hnan⟩ | hnan)
      · exact ⟨i', j', c', hin', Nat.lt_succ_of_lt hlt, hnan⟩
      · exact ⟨i, j, c, hin, hn ▸ Nat.lt_succ_self _, hnan⟩
    · rintro ⟨i', j', c', hin', hlt, hnan⟩
      rcases (Nat.le_of_lt_succ hlt).eq_or_lt with he | hlt'
      · obtain ⟨rfl, rfl, rfl⟩ := hin'.eq_of_sampleIndex hin (he.trans hn.symm)
        exact .inr hnan
      · exact .inl ⟨i', j', c', hin', hlt', hnan⟩

end

/-! ### The moves of a run and what they leave -/

/-- What the moves `es` of a run do apart from its results (R69, R74, R284): the inputs stay, the bytes that
neither the run nor the host writes stay, and `WIGN` says whether the host wrote a register. -/
structure Trace (s : State) (es : List Event) (t : State) : Prop where
  inputs : s.SameInputs t
  kept : ∀ x, ¬ s.inDest x → (∀ a d, Event.px 1#1 a d ∈ es → a.toNat ≠ x) →
    t.pmemByte x = s.pmemByte x
  wign : t.status.wign = (s.status.wign || es.any writesRegister)
  reply : (∀ e ∈ es, e = .engine) → t.reply = s.reply
  events : t.events = s.events.drop es.length

theorem Trace.refl (s : State) : Trace s [] s :=
  ⟨.refl s, fun _ _ _ => rfl, by simp, fun _ => rfl, rfl⟩

theorem Trace.append {s t u : State} {es es' : List Event} (h : Trace s es t) (h' : Trace t es' u) :
    Trace s (es ++ es') u where
  inputs := h.inputs.trans h'.inputs
  kept x hx hhost := by
    rw [h'.kept x (by rwa [h.inputs.inDest]) fun a d hm => hhost a d (List.mem_append_right _ hm),
      h.kept x hx fun a d hm => hhost a d (List.mem_append_left _ hm)]
  wign := by rw [h'.wign, h.wign, List.any_append, Bool.or_assoc]
  reply hes := by
    rw [h'.reply fun e hm => hes e (List.mem_append_right _ hm),
      h.reply fun e hm => hes e (List.mem_append_left _ hm)]
  events := by rw [h'.events, h.events, List.drop_drop, List.length_append]

/-- The state with the next move taken off the list. -/
def State.popped (t : State) : State := t.setEvents t.events.tail

/-- Where the engine's next turn leaves a run. -/
def State.afterTurn (t : State) : State := t.popped.engineStep

theorem State.Inv.popped {t : State} (h : t.Inv) : t.popped.Inv := h.setEvents _

theorem State.Working.popped {t : State} (h : t.Working) : t.popped.Working :=
  ⟨h.acc, h.sample, h.window⟩

section
variable {t : State} (h : t.Inv) (hb : t.status.busy = true)
include h hb

theorem State.Inv.step_engine (he : t.nextEvent = .engine) : step t = .next t.afterTurn := by
  rw [step_eq_runEvent, he]
  exact h.popped.engineTurn_eq hb

theorem State.Inv.afterTurn : t.afterTurn.Inv := h.popped.runEvent (h.popped.engineTurn_eq hb)

theorem State.Inv.trace_engine : Trace t [.engine] t.afterTurn := by
  have hin := h.popped.sameInputs_engineStep hb
  have hturn := h.popped.engineTurn_eq hb
  obtain ⟨_, _, _, _, _, _, _, _, he⟩ := engineTurn_frame hturn
  refine ⟨⟨⟨_, _, _, _, _, _, _, _, he⟩, hin.source⟩,
    fun x hx _ => engineTurn_pmemByte_of_not_inDest h.popped hturn hx, ?_, fun _ => ?_, ?_⟩
  · rw [State.afterTurn, he, List.any_cons, List.any_nil, writesRegister, Bool.or_false, Bool.or_false]
    rfl
  · rw [State.afterTurn, he]
    rfl
  · rw [State.afterTurn, he, List.length_singleton, List.drop_one]
    rfl

end

end Sys2Proof.Machine

/-! ## A run, move by move -/

namespace Sys2Proof.Machine

/-- A turn on a tap of the current sample: one step more, and nothing stored (R204 to R209). -/
structure State.TapTurn (t u : State) : Prop where
  working : u.Working
  steps : u.stepsDone = t.stepsDone + 1
  samples : u.samplesDone = t.samplesDone
  pmem : u.pmem = t.pmem
  status : u.status = t.status

theorem State.Working.tapTurn {t : State} (h : t.Inv) (hb : t.status.busy = true) (hw : t.Working)
    (hout : t.seq.phase ≠ .out) : t.TapTurn t.engineStep := by
  have hq := h.seq_inRange hb
  have hk := h.k_le hb
  unfold State.engineStep
  cases hp : t.seq.phase with
  | idle => exact absurd (h.idleIff.2 hp) (by simp [hb])
  | pad => exact ⟨hw.padNext h hb hp, hq.stepsDone_afterPad hp, Seq.samplesDone_afterPad hp, rfl, rfl⟩
  | mac =>
    exact ⟨hw.macNext h hb hp, hq.stepsDone_afterMac hk hp,
      Seq.samplesDone_afterTap (by decide) (by simp [hp]), rfl, rfl⟩
  | out => exact absurd hp hout
  | fill =>
    exact ⟨hw.fillNext h hb hp, hq.stepsDone_afterFill t.chans_le hk hp, Seq.samplesDone_afterFill hp,
      rfl, rfl⟩
  | red =>
    exact ⟨hw.redNext h hb hp, hq.stepsDone_afterRed hk hp,
      Seq.samplesDone_afterTap (by decide) (by simp [hp]), rfl, rfl⟩

/-- In `OUT` the current sample is the next one to store. -/
theorem State.samplesDone_of_out {t : State} (hp : t.seq.phase = .out) :
    t.samplesDone = t.sampleIndex t.seq.i.toNat t.seq.j.toNat t.seq.ch.toNat := by
  rw [State.samplesDone, Seq.samplesDone, if_neg (by simp [hp])]
  rfl

/-- `t` is the state of the run that began in `s` after the moves `es`, the run not being done. -/
structure Running (s : State) (es : List Event) (t : State) : Prop where
  inv : t.Inv
  busy : t.status.busy = true
  working : t.Working
  outputs : Outputs s t.samplesDone t
  trace : Trace s es t
  steps : es.count .engine = t.stepsDone

/-- `t` is the state in which the run that began in `s` is done, after the moves `es` (R212). -/
structure Finished (s : State) (es : List Event) (t : State) : Prop where
  outputs : Outputs s s.bufBytes t
  trace : Trace s es t
  status : t.status = { Status.zero with done := true, nv := t.status.nv, wign := t.status.wign }
  seq : t.seq = Seq.zero
  acc : t.acc = F32.zero

theorem State.runSteps_eq (s : State) : s.runSteps = s.chans * (s.w * s.h) * (2 * s.k ^ 2 + 1) := by
  unfold State.runSteps
  ring

theorem Running.begin {s : State} (h : s.Inv) (hst : s.status = { Status.zero with busy := true })
    (hseq : s.seq = firstSeq s.ctrl.strat) : Running s [] s where
  inv := h
  busy := by rw [hst]
  working := by
    have hdone : s.seq.tapsDone s.k = 0 := by rw [hseq]; exact (firstSeq_done _ s.w s.chans _).2
    have hacc : s.acc = F32.zero := h.accFresh (by rw [hseq]; cases s.ctrl.strat <;> decide)
    refine ⟨hacc.trans (State.partialSum_of_tapsDone_zero hdone).symm, fun hmac => ?_,
      fun hs a b c _ _ _ hfill => ?_⟩
    · rw [hseq, firstSeq] at hmac
      cases hs : s.ctrl.strat <;> simp [hs] at hmac
    · have hlt := hfill (by rw [hseq, hs]; rfl)
      have hstart : s.seq.fillStep s.chans s.k = 0 := by
        simp [hseq, firstSeq, Seq.zero, Seq.fillStep, fillIndex]
      omega
  outputs := by
    have hdone : s.samplesDone = 0 := by
      rw [State.samplesDone, hseq]
      exact (firstSeq_done _ _ _ s.k).1
    rw [hdone]
    exact .zero (by rw [hst]; rfl)
  trace := .refl s
  steps := by
    rw [State.stepsDone, hseq, firstSeq_stepsDone]
    rfl

/-- What the engine holds survives a change of bytes outside the source. -/
theorem State.Working.of_sameInputs {t u : State} (hw : t.Working) (h : t.Inv) (hb : t.status.busy = true)
    (hin : t.SameInputs u) {status : Status} {reply : Option Reply} {pmem : List Host.Cell}
    {events : List Event}
    (hu : u = { t with status := status, reply := reply, pmem := pmem, events := events }) :
    u.Working := by
  subst hu
  obtain ⟨hi, hj, hch⟩ := h.inImage hb
  have hw0 : 0 < t.w := Nat.zero_lt_of_lt hi
  have hh0 : 0 < t.h := Nat.zero_lt_of_lt hj
  exact
    { acc := hw.acc.trans (hin.accAfter hw0 hh0 hch _ _ _).symm
      sample := fun hmac => (hw.sample hmac).trans (hin.paddedSample hw0 hh0 hch _ _ _ _).symm
      window := fun hs a b c ha hb hc hfill =>
        (hw.window hs a b c ha hb hc hfill).trans (hin.paddedSample hw0 hh0 hc _ _ _ _).symm }

section
variable {t u : State} (hb : t.status.busy = true) (he : t.nextEvent ≠ .engine)
include hb he

/-- While `BUSY` = 1 the host changes the byte it writes and no other. -/
theorem hostMove_pmemByte (hrst : t.nextEvent ≠ .rst) (hstep : step t = .next u) {x : Nat}
    (hx : ∀ a d, t.nextEvent = .px 1#1 a d → a.toNat ≠ x) : u.pmemByte x = t.pmemByte x := by
  obtain ⟨-, hpwr, hprd, hrx, hcmdw⟩ := hostMovesCannotTouchARun t u t.nextEvent t.events.tail hb
    (State.events_of_nextEvent rfl he) he hrst hstep
  cases hmove : t.nextEvent with
  | engine => exact absurd hmove he
  | rst => exact absurd hmove hrst
  | cmdw w => exact State.pmemByte_congr (hcmdw w hmove).1 x
  | rx header d => exact State.pmemByte_congr (hrx header d hmove).1 x
  | px kind addr data =>
    obtain rfl | rfl := BitVec.eq_zero_or_eq_one kind
    · exact State.pmemByte_congr (hprd addr data hmove).1 x
    · rw [(hpwr addr data hmove).2 x, if_neg fun hxa => hx addr data hmove hxa.symm]

variable (hq : t.quiet t.nextEvent)
include hq

omit hb in
theorem quietMove_answers : ∃ u, step t = .next u := by
  rw [step_eq_runEvent]
  rcases hostMove_answers t.popped he with hu | ⟨kind, addr, data, hpx, hout, -⟩
  · exact hu
  · rw [hpx] at hq
    exact absurd hq.1 (Nat.not_lt.2 hout)

/-- A move of the host away from the two regions, while `BUSY` = 1: it may set `WIGN`, reply, or write a
byte of neither region (R284). -/
theorem quietMove : ∃ u, step t = .next u ∧ Trace t [t.nextEvent] u ∧
    (∀ x, t.inSource x ∨ t.inDest x → u.pmemByte x = t.pmemByte x) ∧
    ∃ reply pmem events, u = { t with
      status := { t.status with wign := t.status.wign || writesRegister t.nextEvent }
      reply := reply, pmem := pmem, events := events } := by
  obtain ⟨u, hstep⟩ := quietMove_answers he hq
  have hrst : t.nextEvent ≠ .rst := fun hrst => by rw [hrst] at hq; exact hq
  have hregion (x : Nat) (hx : t.inSource x ∨ t.inDest x) : u.pmemByte x = t.pmemByte x := by
    refine hostMove_pmemByte hb he hrst hstep fun a d hmove hax => ?_
    rw [hmove] at hq
    subst hax
    exact hx.elim (hq.2 rfl).1 (hq.2 rfl).2
  obtain ⟨⟨reply, pmem, hu⟩, -⟩ := hostMovesCannotTouchARun t u t.nextEvent t.events.tail hb
    (State.events_of_nextEvent rfl he) he hrst hstep
  refine ⟨u, hstep, ⟨⟨⟨_, _, _, _, _, _, _, _, hu⟩, fun x hx => hregion x (.inl hx)⟩, fun x _ hx => ?_, ?_,
    fun hall => ?_, ?_⟩, hregion, reply, pmem, t.events.tail, hu⟩
  · exact hostMove_pmemByte hb he hrst hstep fun a d hmove =>
      hx a d (by rw [hmove]; exact List.mem_singleton_self _)
  · rw [hu, List.any_cons, List.any_nil, Bool.or_false]
  · exact absurd (hall _ (List.mem_singleton_self _)) he
  · rw [hu, List.length_singleton, List.drop_one]

end

section
variable {s t : State} {es : List Event} (h : Running s es t)
include h

theorem Running.stepsDone_lt : es.count .engine < s.runSteps := by
  rw [h.steps, ← h.trace.inputs.runSteps, State.runSteps_eq]
  exact (h.inv.seq_inRange h.busy).stepsDone_lt

/-- The `OUT` of a run stores `CONV` of its sample, for `ACC` holds the sum of all its taps. -/
theorem Running.outputs_out (hp : t.seq.phase = .out) : Outputs s (t.samplesDone + 1) t.afterTurn := by
  have hin := h.trace.inputs
  have hsample := (hin.inImage _ _ _).1 (h.inv.inImage h.busy)
  have hacc : t.acc = s.convAcc t.seq.i.toNat t.seq.j.toNat t.seq.ch.toNat := by
    rw [h.working.acc, State.partialSum_of_out hp, hin.convAcc hsample]
  have hturn : t.afterTurn = advanceOut t.popped.outStored := State.engineStep_of_out hp
  refine h.outputs.succ hsample ?_ (fun x => ?_) ?_
  · rw [State.samplesDone_of_out hp, hin.sampleIndex]
  · rw [hturn, State.pmemByte_congr (advanceOut_pmem _), ← hacc, ← hin.dstAddr]
    exact t.pmemByte_setPmemByte ..
  · obtain ⟨_, _, _, hframe⟩ := advanceOut_frame t.popped.outStored
    rw [hturn, hframe, ← hacc]
    rfl

/-- What the host does away from the two regions does not touch the run (R284). -/
theorem Running.hostMove (he : t.nextEvent ≠ .engine) (hq : s.quiet t.nextEvent) :
    ∃ u, step t = .next u ∧ Running s (es ++ [t.nextEvent]) u := by
  have hin := h.trace.inputs
  obtain ⟨u, hstep, htrace, hsame, reply, pmem, events, hu⟩ :=
    quietMove h.busy he ((hin.quiet _).2 hq)
  have hinv : u.Inv := everyStepKeepsTheInvariant t u h.inv hstep
  have hworking : u.Working := h.working.of_sameInputs h.inv h.busy htrace.inputs hu
  have houtputs : Outputs s t.samplesDone u :=
    h.outputs.of_same (fun x hx => hsame x (.inr ((hin.inDest x).2 hx))) (by rw [hu])
  refine ⟨u, hstep, hinv, ?_, hworking, ?_, h.trace.append htrace, ?_⟩
  · rw [hu]
    exact h.busy
  · rw [hu] at houtputs ⊢
    exact houtputs
  · rw [List.count_append, h.steps, List.count_singleton, beq_false_of_ne he, hu]
    rfl

theorem Running.count_turn : (es ++ [Event.engine]).count .engine = t.stepsDone + 1 := by
  rw [List.count_append, h.steps, List.count_singleton_self]

theorem Running.trace_turn : Trace s (es ++ [.engine]) t.afterTurn :=
  h.trace.append (h.inv.trace_engine h.busy)

/-- A turn on a tap of the current sample. -/
theorem Running.tapTurn (hp : t.seq.phase ≠ .out) : Running s (es ++ [.engine]) t.afterTurn := by
  have hturn : t.popped.TapTurn t.afterTurn := h.working.popped.tapTurn h.inv.popped h.busy hp
  have houtputs : Outputs s t.samplesDone t.afterTurn :=
    h.outputs.of_same (fun x _ => State.pmemByte_congr hturn.pmem x) (congrArg Status.nv hturn.status)
  exact ⟨h.inv.afterTurn h.busy, (congrArg Status.busy hturn.status).trans h.busy, hturn.working,
    hturn.samples.symm ▸ houtputs, h.trace_turn, h.count_turn.trans hturn.steps.symm⟩

/-- The `OUT` of a sample that is not the last of the run. -/
theorem Running.outTurn (hp : t.seq.phase = .out) {q : Seq}
    (hn : afterOut t.ctrl.strat t.w t.h t.chans t.seq = some q) :
    Running s (es ++ [.engine]) t.afterTurn := by
  have hq := h.inv.seq_inRange h.busy
  have hturn : t.afterTurn = t.popped.outStored.setSeq q :=
    (State.engineStep_of_out (t := t.popped) hp).trans (State.advanceOut_of_some (t := t.popped) hn)
  have hsamples : (t.popped.outStored.setSeq q).samplesDone = t.samplesDone + 1 :=
    hq.samplesDone_afterOut t.width.isLt t.height.isLt t.chans_le hp hn
  have hsteps : (t.popped.outStored.setSeq q).stepsDone = t.stepsDone + 1 :=
    hq.stepsDone_afterOut t.width.isLt t.height.isLt t.chans_le hp hn
  have hinv := h.inv.afterTurn h.busy
  have htrace := h.trace_turn
  have houtputs := h.outputs_out hp
  rw [hturn] at hinv htrace houtputs ⊢
  exact ⟨hinv, h.busy, h.working.popped.outNext h.inv.popped h.busy hp hn, hsamples ▸ houtputs, htrace,
    h.count_turn.trans hsteps.symm⟩

/-- The `OUT` of the last sample ends the run (R212). -/
theorem Running.finishTurn (hp : t.seq.phase = .out)
    (hn : afterOut t.ctrl.strat t.w t.h t.chans t.seq = none) :
    Finished s (es ++ [.engine]) t.afterTurn ∧ es.count .engine + 1 = s.runSteps := by
  have hq := h.inv.seq_inRange h.busy
  have hturn := (State.engineStep_of_out (t := t.popped) hp).trans
    (State.advanceOut_of_none (t := t.popped) hn)
  have hsamples : t.samplesDone + 1 = s.bufBytes := by
    rw [← h.trace.inputs.bufBytes, State.bufBytes_eq]
    exact hq.samplesDone_last hp hn
  have hsteps : t.stepsDone + 1 = s.runSteps := by
    rw [← h.trace.inputs.runSteps, State.runSteps_eq]
    exact hq.stepsDone_last hp hn
  obtain ⟨-, herr, hcode⟩ := h.inv.busyClean h.busy
  refine ⟨⟨hsamples ▸ h.outputs_out hp, h.trace_turn, ?_, ?_, ?_⟩, h.steps ▸ hsteps⟩ <;>
    rw [State.afterTurn, hturn]
  · simp [Status.zero, State.outStored, State.popped, herr, hcode]
  · rfl
  · rfl

/-- The engine's turn is one step of the run, and the last one when it is the `OUT` of the last sample. -/
theorem Running.engineMove (he : t.nextEvent = .engine) : ∃ u, step t = .next u ∧
    (Running s (es ++ [.engine]) u ∨
      Finished s (es ++ [.engine]) u ∧ es.count .engine + 1 = s.runSteps) := by
  refine ⟨t.afterTurn, h.inv.step_engine h.busy he, ?_⟩
  by_cases hp : t.seq.phase = .out
  · cases hn : afterOut t.ctrl.strat t.w t.h t.chans t.seq with
    | some q => exact .inl (h.outTurn hp hn)
    | none => exact .inr (h.finishTurn hp hn)
  · exact .inl (h.tapTurn hp)

/-- The last turn of the run (R212): a run that still ran would have turns left. -/
theorem Running.lastTurn (he : t.nextEvent = .engine) (hlast : es.count .engine + 1 = s.runSteps) :
    ∃ u, step t = .next u ∧ Finished s (es ++ [.engine]) u := by
  obtain ⟨u, hstep, hrun | ⟨hfin, -⟩⟩ := h.engineMove he
  · have hlt := hrun.stepsDone_lt
    rw [List.count_append, List.count_singleton_self] at hlt
    omega
  · exact ⟨u, hstep, hfin⟩

/-- A move of either agent that does not end the run. -/
theorem Running.move (hq : s.quiet t.nextEvent)
    (hmore : (es ++ [t.nextEvent]).count .engine < s.runSteps) :
    ∃ u, step t = .next u ∧ Running s (es ++ [t.nextEvent]) u := by
  by_cases he : t.nextEvent = .engine
  · rw [he, List.count_append, List.count_singleton_self] at hmore
    obtain ⟨u, hstep, hrun | ⟨-, hlast⟩⟩ := h.engineMove he
    · exact ⟨u, hstep, he ▸ hrun⟩
    · omega
  · exact h.hostMove he hq

end

/-! ### Rows of moves -/

/-- The next `n` moves when `es` are listed: the engine has every turn once the list is empty. -/
def nextMoves : Nat → List Event → List Event
  | 0, _ => []
  | n + 1, es => es.headD .engine :: nextMoves n es.tail

theorem nextMoves_nil (n : Nat) : nextMoves n [] = List.replicate n .engine := by
  induction n with
  | zero => rfl
  | succ n ih => exact congrArg (Event.engine :: ·) ih

theorem nextMoves_append (es rest : List Event) : nextMoves es.length (es ++ rest) = es := by
  induction es with
  | nil => rfl
  | cons e es ih => exact congrArg (e :: ·) ih

/-- A run through moves that do not end it. -/
theorem Running.moves (n : Nat) {s t : State} {es : List Event} (h : Running s es t)
    (hq : ∀ e ∈ nextMoves n t.events, s.quiet e)
    (hmore : (es ++ nextMoves n t.events).count .engine < s.runSteps) :
    ∃ u, Host.Core.run core n t = .next u ∧ Running s (es ++ nextMoves n t.events) u := by
  induction n generalizing t es with
  | zero => exact ⟨t, rfl, by rwa [nextMoves, List.append_nil]⟩
  | succ n ih =>
    have hsplit : es ++ nextMoves (n + 1) t.events =
        (es ++ [t.nextEvent]) ++ nextMoves n t.events.tail := List.append_cons _ _ _
    rw [hsplit] at hmore ⊢
    have hfirst : (es ++ [t.nextEvent]).count .engine < s.runSteps :=
      (List.Sublist.count_le _ (List.sublist_append_left _ _)).trans_lt hmore
    obtain ⟨u, hstep, hrun⟩ := h.move (hq _ List.mem_cons_self) hfirst
    have hevents : u.events = t.events.tail := by
      rw [hrun.trace.events, h.trace.events, List.length_append, List.length_singleton, List.tail_drop]
    rw [← hevents] at hmore ⊢
    obtain ⟨v, hv, hrun'⟩ := ih hrun (fun e he => hq e (List.mem_cons_of_mem _ (hevents ▸ he))) hmore
    exact ⟨v, (run_succ hstep).trans hv, hrun'⟩

end Sys2Proof.Machine

/-! ## Whole runs -/

namespace Sys2Proof.Machine

theorem run_snoc {n : Nat} {s t u : State} (h : Host.Core.run core n s = .next t) (hu : step t = .next u) :
    Host.Core.run core (n + 1) s = .next u := by
  induction n generalizing s with
  | zero =>
    cases h
    rw [run_succ hu]
    rfl
  | succ n ih =>
    cases hs : step s with
    | next s' =>
      rw [run_succ hs] at h ⊢
      exact ih h
    | fault r =>
      have hstep : core.step s = .fault r := hs
      simp [Host.Core.run, hstep] at h
    | refused r =>
      have hstep : core.step s = .refused r := hs
      simp [Host.Core.run, hstep] at h

theorem nextMoves_length (n : Nat) (es : List Event) : (nextMoves n es).length = n := by
  induction n generalizing es with
  | zero => rfl
  | succ n ih => exact congrArg Nat.succ (ih _)

/-- A run through all its moves but the last, which is the engine's, and then that one. -/
theorem Running.finishes {s : State} (h : Running s [] s) {n : Nat}
    (hq : ∀ e ∈ nextMoves n s.events, s.quiet e)
    (hcount : (nextMoves n s.events).count .engine + 1 = s.runSteps)
    (hlast : (s.events.drop n).headD .engine = .engine) :
    ∃ t, Host.Core.run core (n + 1) s = .next t ∧ Finished s (nextMoves n s.events ++ [.engine]) t := by
  obtain ⟨t, hrun, hrunning⟩ := h.moves n hq (by rw [List.nil_append]; omega)
  rw [List.nil_append] at hrunning
  have hnext : t.nextEvent = .engine := by
    unfold State.nextEvent
    rw [hrunning.trace.events, nextMoves_length, hlast]
  obtain ⟨u, hstep, hfin⟩ := hrunning.lastTurn hnext hcount
  exact ⟨u, run_snoc hrun hstep, hfin⟩

section
variable {s t : State} {es : List Event} (h : Finished s es t)
include h

theorem Finished.stored {i j c : Nat} (hin : s.InImage i j c) :
    t.pmemByte (s.dstAddr i j c) = sat8 (s.convAcc i j c) :=
  h.outputs.stored i j c hin hin.sampleIndex_lt

theorem Finished.nv_iff : t.status.nv = true ↔
    ∃ i j c, i < s.w ∧ j < s.h ∧ c < s.chans ∧ s.convAcc i j c = .nan := by
  rw [h.outputs.nv]
  constructor
  · rintro ⟨i, j, c, ⟨hi, hj, hc⟩, -, hnan⟩
    exact ⟨i, j, c, hi, hj, hc, hnan⟩
  · rintro ⟨i, j, c, hi, hj, hc, hnan⟩
    exact ⟨i, j, c, ⟨hi, hj, hc⟩, State.InImage.sampleIndex_lt ⟨hi, hj, hc⟩, hnan⟩

end

/-- Settles O54: the invariant `Running` holds after each of the moves before the last, and the last one
makes it `Finished`. -/
theorem runIgnoresTheHostElsewhere : Obligations.RunIgnoresTheHostElsewhere := by
  intro s es rest h hst hseq he hcount hq
  have hmoves : nextMoves es.length s.events = es := he ▸ nextMoves_append es _
  have hdrop : s.events.drop es.length = .engine :: rest := by rw [he, List.drop_left]
  obtain ⟨t, hrun, hfin⟩ := (Running.begin h hst hseq).finishes (n := es.length) (by rwa [hmoves])
    (by rwa [hmoves]) (by rw [hdrop]; rfl)
  rw [hmoves] at hfin
  refine ⟨t, hrun, ?_, hfin.seq, fun i j c hi hj hc => hfin.stored ⟨hi, hj, hc⟩, fun x hx hhost => ?_,
    hfin.nv_iff, ?_, hfin.status, ?_⟩
  · rw [hfin.trace.events, List.length_append, List.length_singleton, ← List.drop_drop, hdrop]
    rfl
  · refine hfin.trace.kept x hx fun a d hm => hhost a d ?_
    simpa using hm
  · rw [hfin.trace.wign, hst]
    simp [Status.zero, writesRegister]
  · have hctrl : t.ctrl.ie = s.ctrl.ie :=
      hfin.trace.inputs.congr (·.ctrl.ie) fun _ _ _ _ _ _ _ _ => rfl
    unfold State.irq
    rw [hfin.status, hctrl]
    simp

/-! ### A silent host -/

section
variable {s : State} (h : s.runBegins)
include h

theorem State.runBegins.running : Running s [] s := by
  obtain ⟨hinv, hst, hseq, -⟩ := h
  exact .begin hinv hst hseq

theorem State.runBegins.moves (n : Nat) : nextMoves n s.events = List.replicate n .engine := by
  obtain ⟨-, -, -, he⟩ := h
  rw [he, nextMoves_nil]

theorem State.runBegins.quiet (n : Nat) : ∀ e ∈ nextMoves n s.events, s.quiet e := by
  rw [h.moves]
  intro e he
  rw [List.eq_of_mem_replicate he]
  trivial

/-- With a silent host a run is done after its W·H·C·(2·K² + 1) engine steps (R215). -/
theorem State.runBegins.finishes : ∃ t, Host.Core.run core s.runSteps s = .next t ∧
    Finished s (List.replicate s.runSteps .engine) t := by
  have hpos : 0 < s.runSteps := h.running.stepsDone_lt
  have hsteps : s.runSteps - 1 + 1 = s.runSteps := Nat.sub_add_cancel hpos
  obtain ⟨-, -, -, he⟩ := id h
  obtain ⟨t, hrun, hfin⟩ := h.running.finishes (n := s.runSteps - 1) (h.quiet _)
    (by rw [h.moves, List.count_replicate_self, hsteps]) (by rw [he, List.drop_nil]; rfl)
  rw [h.moves, ← List.replicate_succ', hsteps] at hfin
  rw [hsteps] at hrun
  exact ⟨t, hrun, hfin⟩

end

/-- Settles O52: each turn but the last keeps `Running`, of which `BUSY` = 1 is part. -/
theorem runTakesExactlyItsSteps : Obligations.RunTakesExactlyItsSteps := by
  intro s h
  have hsteps : s.w * s.h * s.chans * (2 * s.k ^ 2 + 1) = s.runSteps := by
    rw [pow_two]
    rfl
  rw [hsteps]
  constructor
  · intro n hn
    obtain ⟨t, hrun, hrunning⟩ := h.running.moves n (h.quiet n)
      (by rwa [h.moves, List.nil_append, List.count_replicate_self])
    exact ⟨t, hrun, hrunning.busy, (hrunning.inv.busyClean hrunning.busy).1⟩
  · obtain ⟨t, hrun, hfin⟩ := h.finishes
    refine ⟨t, hrun, ?_, ?_, hfin.seq⟩ <;> rw [hfin.status]
    rfl

/-- Settles O53: the engine alone moves, so the run leaves the reply and sets no `WIGN` either. -/
theorem runComputesTheConvolution : Obligations.RunComputesTheConvolution := by
  intro s h
  obtain ⟨t, hrun, hfin⟩ := h.finishes
  have hsilent : ∀ e ∈ List.replicate s.runSteps Event.engine, e = .engine :=
    fun e => List.eq_of_mem_replicate
  obtain ⟨hinputs, hkept, hwign, hreply, hevents⟩ := hfin.trace
  have hwign' : t.status.wign = false := by
    obtain ⟨-, hst, -⟩ := h
    rw [hwign, hst, List.any_eq_false.2 fun e he => by simp [hsilent e he, writesRegister]]
    rfl
  have hevents' : t.events = s.events := by
    obtain ⟨-, -, -, he⟩ := h
    rw [hevents, he, List.drop_nil]
  refine ⟨t, hrun, fun i j c hi hj hc => hfin.stored ⟨hi, hj, hc⟩, fun x hx => ?_, hfin.nv_iff, ?_, ?_⟩
  · exact hkept x hx fun a d hm => absurd (hsilent _ hm) (by simp)
  · have hst := hfin.status
    rwa [hwign'] at hst
  · obtain ⟨⟨status, seq, acc, sample, win, pmem, reply, events, rfl⟩, -⟩ := hinputs
    obtain rfl : seq = Seq.zero := hfin.seq
    obtain rfl : acc = F32.zero := hfin.acc
    obtain rfl : reply = s.reply := hreply hsilent
    obtain rfl : events = s.events := hevents'
    exact ⟨pmem, sample, win, rfl⟩

end Sys2Proof.Machine

/-! ## The two strategies -/

namespace Sys2Proof.Machine

/-- `Acc(i, j, c)` does not depend on the strategy: it is made of the operands, the source bytes and the
weights (R168). -/
theorem State.convAcc_congr {s₁ s₂ : State} (hrgb : s₁.ctrl.rgb = s₂.ctrl.rgb)
    (hwidth : s₁.width = s₂.width) (hheight : s₁.height = s₂.height) (hksize : s₁.ksize = s₂.ksize)
    (hsrc : s₁.srcBase = s₂.srcBase) (hpmem : ∀ x, s₁.pmemByte x = s₂.pmemByte x)
    (hkmem : ∀ n, s₁.kmemWord n = s₂.kmemWord n) (i j c : Nat) :
    s₁.convAcc i j c = s₂.convAcc i j c := by
  simp only [State.convAcc, State.paddedSample, State.paddedAddr, State.srcAddr, State.addr, State.w,
    State.h, State.k, State.radius, State.chans, State.src, hrgb, hwidth, hheight, hksize, hsrc, hpmem,
    hkmem]

/-- Settles O55: each run stores its own `CONV`, and both are the same function. -/
theorem strategiesGiveTheSameResult : Obligations.StrategiesGiveTheSameResult := by
  intro s₁ s₂ h₁ h₂ hrgb hwidth hheight hksize hsrc hdst hpmem hkmem
  obtain ⟨t₁, hrun₁, hdest₁, hkept₁, hnv₁, -, -⟩ := runComputesTheConvolution s₁ h₁
  obtain ⟨t₂, hrun₂, hdest₂, hkept₂, hnv₂, -, -⟩ := runComputesTheConvolution s₂ h₂
  have hw : s₁.w = s₂.w := congrArg BitVec.toNat hwidth
  have hh : s₁.h = s₂.h := congrArg BitVec.toNat hheight
  have hchans : s₁.chans = s₂.chans := by rw [State.chans_eq, State.chans_eq, hrgb]
  have hdstAddr (i j c : Nat) : s₁.dstAddr i j c = s₂.dstAddr i j c := by
    simp only [State.dstAddr, State.addr, State.dst, hdst, hw, hchans]
  have hconv := State.convAcc_congr hrgb hwidth hheight hksize hsrc hpmem hkmem
  refine ⟨t₁, t₂, hrun₁, hrun₂, fun x => ?_, ?_⟩
  · by_cases hx : s₁.inDest x
    · obtain ⟨i, j, c, ⟨hi, hj, hc⟩, rfl⟩ := State.inDest_iff.1 hx
      rw [hdest₁ i j c hi hj hc, hdstAddr, hdest₂ i j c (hw ▸ hi) (hh ▸ hj) (hchans ▸ hc), hconv]
    · have hx₂ : ¬ s₂.inDest x := by
        simpa only [State.inDest, State.dst, State.bufBytes, hdst, hw, hh, hchans] using hx
      rw [hkept₁ x hx, hkept₂ x hx₂, hpmem]
  · rw [Bool.eq_iff_iff, hnv₁, hnv₂]
    simp only [hw, hh, hchans, hconv]

end Sys2Proof.Machine

/-! ## The identity kernel -/

namespace Sys2Proof.Machine

/-- A tap with a zero weight of either sign leaves a sample in `ACC` as it is, the sample 0 too: `ACC` is
never −0 here (R164, R173). -/
theorem macStep_zero_weight (v s : Byte) {w : Word} (hw : w = 0x00000000#32 ∨ w = 0x80000000#32) :
    macStep (u8ToF32 v) s w = u8ToF32 v := by
  obtain ⟨neg, hweight⟩ : ∃ neg, F32.ofBits w = .fin neg 0 := by
    rcases hw with rfl | rfl
    · exact ⟨false, by decide⟩
    · exact ⟨true, by decide⟩
  have hprod : fmul32 (u8ToF32 s) (.fin neg 0) = .fin neg 0 := by simp [fmul32, u8ToF32]
  rw [macStep, hweight, hprod]
  by_cases hv : v = 0#8
  · subst hv
    simp [fadd32, u8ToF32]
  · refine fadd32_zero neg (u8ToF32_isBinary32 v) fun neg' he => hv ?_
    have hmag : v.toNat * 2 ^ 149 = 0 := (F32.fin.inj he).2
    exact BitVec.eq_of_toNat_eq (by simpa using hmag)

/-- The weights of R222: 1.0 at the centre, a zero of either sign everywhere else. -/
def State.IdentityKernel (s : State) : Prop :=
  ∀ a b, a < s.k → b < s.k →
    if a = s.radius ∧ b = s.radius then s.kmemWord (a * s.k + b) = 0x3F800000#32
    else s.kmemWord (a * s.k + b) = 0x00000000#32 ∨ s.kmemWord (a * s.k + b) = 0x80000000#32

theorem State.radius_lt {s : State} (hk : 0 < s.k) : s.radius < s.k := by
  unfold State.radius
  omega

/-- The tap number of the centre is the one whose row and column are both r. -/
theorem State.eq_centre_iff {s : State} (hk : 0 < s.k) {n : Nat} :
    n = s.radius * s.k + s.radius ↔ n / s.k = s.radius ∧ n % s.k = s.radius := by
  rw [Nat.div_mod_unique hk, and_iff_left (s.radius_lt hk), Nat.add_comm, Nat.mul_comm, eq_comm]

/-- With the identity kernel the sum is +0 up to the centre tap and the pixel's own sample from it on. -/
theorem State.IdentityKernel.accAfter {s : State} (hker : s.IdentityKernel) {i j n : Nat} (c : Nat)
    (hi : i < s.w) (hj : j < s.h) (hn : n ≤ s.k ^ 2) :
    s.accAfter i j c n = u8ToF32 (if n ≤ s.radius * s.k + s.radius then 0#8 else s.srcSample i j c) := by
  induction n with
  | zero =>
    rw [if_pos (Nat.zero_le _)]
    simp [u8ToF32, F32.zero]
  | succ n ih =>
    have hrow : n / s.k < s.k := Nat.div_lt_of_lt_mul (by rw [← pow_two]; omega)
    have hk : 0 < s.k := Nat.zero_lt_of_lt hrow
    have hweight := hker (n / s.k) (n % s.k) hrow (Nat.mod_lt _ hk)
    have hcentre := s.eq_centre_iff hk (n := n)
    rw [Nat.div_add_mod'] at hweight
    rw [State.accAfter_succ, ih (by omega)]
    by_cases hat : n = s.radius * s.k + s.radius
    · obtain ⟨ha, hb⟩ := hcentre.1 hat
      have hzero : u8ToF32 0#8 = F32.zero := by simp [u8ToF32, F32.zero]
      rw [if_pos ⟨ha, hb⟩] at hweight
      rw [if_pos hat.le, if_neg (by omega), ha, hb, hweight, hzero, macStep_zero_one,
        s.paddedSample_of_inside c rfl rfl hi hj]
    · rw [if_neg (hcentre.not.1 hat)] at hweight
      rw [macStep_zero_weight _ _ hweight]
      exact congrArg u8ToF32 (if_congr (by omega) rfl rfl)

/-- Settles O56: the sum of every sample is the source sample itself, which `sat8` gives back. -/
theorem identityKernelReproducesTheSource : Obligations.IdentityKernelReproducesTheSource := by
  intro s h hker
  obtain ⟨t, hrun, hdest, -⟩ := runComputesTheConvolution s h
  have hk : 0 < s.k := Nat.zero_lt_of_lt (h.running.inv.run h.running.busy).aRange
  have hcentre : s.radius * s.k + s.radius < s.k ^ 2 := by
    rw [Nat.add_comm, Nat.mul_comm, pow_two]
    exact Nat.add_mul_lt_mul_of_lt_of_lt (s.radius_lt hk) (s.radius_lt hk)
  refine ⟨t, hrun, fun i j c hi hj hc => ?_⟩
  have hacc : s.convAcc i j c = u8ToF32 (s.srcSample i j c) := by
    rw [← State.accAfter_all, State.IdentityKernel.accAfter hker c hi hj le_rfl, if_neg (by omega)]
  rw [hdest i j c hi hj hc, hacc, sat8_u8ToF32, State.srcSample]

end Sys2Proof.Machine

/-! ## What moves `ERR` and `ERRCODE` -/

namespace Sys2Proof.Machine

/-- The error the block reports: `ERR` and `ERRCODE` (R240). -/
def State.error (s : State) : Bool × BitVec 4 := (s.status.err, s.status.errcode)

theorem State.error_of_status {s t : State} (h : t.status = s.status) : t.error = s.error :=
  congrArg (fun st : Status => (st.err, st.errcode)) h

theorem State.EngineFrame.error {s t : State} (h : s.EngineFrame t) : t.error = s.error := by
  obtain ⟨_, _, _, _, _, _, _, _, rfl⟩ := h
  rfl

/-- Of the register writes only those to `CMD` touch `STATUS`. -/
theorem writeEffect_status {i : Instr} {effect : State → State} (h : writeEffect i = some effect) :
    (∃ w, encode i = .rx 0b10100#5 w ∨ encode i = .cmdw w) ∨ ∀ s, (effect s).status = s.status := by
  cases i <;> cases h
  case nop | start | clear | sreset => exact .inl ⟨_, .inr rfl⟩
  case wrCmd w => exact .inl ⟨w, .inl rfl⟩
  case wrKdata data => exact .inr (kdataEffect_status data)
  all_goals exact .inr fun _ => rfl

/-- What a move can do to the error the block reports: leave it, lower `ERR`, or, as a write to `CMD`
accepted while idle, anything. -/
inductive ErrorMove (e : Event) (s t : State) : Prop where
  | kept (h : t.error = s.error)
  | lowered (h : t.status.err = false)
  | cmd (w : Word) (he : writesCmd e w) (hb : s.status.busy = false)

/-- A register write dropped while busy sets no flag but `WIGN` (R119), so only an accepted one counts. -/
theorem errorMove_of_write {p : Packet} {i : Instr} {effect : State → State} {e : Event} {s : State}
    (hp : eventPacket e s = some p) (hd : decode p = .ok i) (hi : writeEffect i = some effect) :
    ErrorMove e s (acceptWrite effect s) := by
  rw [← encode_of_decode_write hi hd] at hp
  rcases acceptWrite_cases effect s with ⟨-, ha⟩ | ⟨hb, ha⟩ <;> rw [ha]
  · exact .kept rfl
  · rcases writeEffect_status hi with ⟨w, hw⟩ | hs
    · exact .cmd w (hw.imp (fun hw => eventPacket_eq_rx (hw ▸ hp))
        (fun hw => eventPacket_eq_cmdw (hw ▸ hp))) hb
    · exact .kept (State.error_of_status (hs s))

theorem errorMove_of_exec {p : Packet} {i : Instr} {e : Event} {s t : State}
    (hp : eventPacket e s = some p) (hd : decode p = .ok i) (h : exec i s = .next t) :
    ErrorMove e s t := by
  rcases exec_cases i s with ⟨v, -, hi⟩ | ⟨effect, he, hi⟩ | ⟨q, rfl⟩ | ⟨addr, rfl⟩ | ⟨addr, data, rfl⟩
  · cases hi.symm.trans h
    exact .kept rfl
  · cases hi.symm.trans h
    exact errorMove_of_write hp hd he
  · exact .kept (exec_phaseInstr_frame h).error
  · rcases execPrd_cases addr s with ⟨-, hi⟩ | ⟨-, hi⟩ <;> cases hi.symm.trans h
    exact .kept rfl
  · rcases execPwr_cases addr data s with ⟨-, hi⟩ | ⟨-, hi⟩ <;> cases hi.symm.trans h
    exact .kept rfl

/-- Of the packets without a row only an illegal command word is a write to `CMD` (R118). -/
theorem errorMove_of_reject {p : Packet} {r : Reject} {e : Event} {s t : State}
    (hp : eventPacket e s = some p) (hd : decode p = .error r) (h : runReject r s = .next t) :
    ErrorMove e s t := by
  cases r with
  | unmappedRead widx => exact .kept (Host.Outcome.next.inj h ▸ rfl)
  | ignoredWrite widx => exact .kept (Host.Outcome.next.inj h ▸ rfl)
  | unusedPhase code => cases h
  | illegalCommand w =>
    obtain rfl := eq_cmdw_of_illegalCommand hd
    rw [← Host.Outcome.next.inj h]
    rcases acceptWrite_cases (commandEffect w) s with ⟨-, ha⟩ | ⟨hb, -⟩
    · exact .kept (ha ▸ rfl)
    · exact .cmd w (.inr (eventPacket_eq_cmdw hp)) hb

theorem errorMove_of_runEvent {e : Event} {s t : State} (h : runEvent e s = .next t) :
    ErrorMove e s t := by
  rcases runEvent_next h with ⟨-, rfl⟩ | ⟨p, i, hp, hd, hi⟩ | ⟨p, r, hp, hd, hr⟩
  · exact .lowered rfl
  · exact errorMove_of_exec hp hd hi
  · exact errorMove_of_reject hp hd hr

/-- Settles O47: a move that leaves `ERR` = 1 and is no accepted write to `CMD` leaves both fields as
they were. -/
theorem errorsArriveOnlyWithCommands : Obligations.ErrorsArriveOnlyWithCommands := by
  intro s t h herr hnew
  rcases errorMove_of_runEvent (step_eq_runEvent s ▸ h) with hkept | hlow | ⟨w, he, hb⟩
  · obtain ⟨hsame, hcode⟩ := Prod.mk.inj hkept
    rcases hnew with hclear | hcode'
    · exact absurd (herr.symm.trans (hsame.trans hclear)) Bool.noConfusion
    · exact absurd hcode hcode'
  · exact absurd (herr.symm.trans hlow) Bool.noConfusion
  · exact ⟨hb, w, events_of_writesCmd he⟩

end Sys2Proof.Machine

/-! ## `rst` -/

namespace Sys2Proof.Machine

@[simp] theorem hardReset_irq (s : State) : (hardReset s).irq = false := rfl

@[simp] theorem hardReset_pmemByte (s : State) (x : Nat) : (hardReset s).pmemByte x = s.pmemByte x :=
  rfl

/-- Nothing is listed after `rst`, so `KMEM` reads as the free values of the new reset number. -/
@[simp] theorem hardReset_kmemWord (s : State) (n : Nat) :
    (hardReset s).kmemWord n = Config.kmemAfterReset (s.epoch + 1) n := rfl

@[simp] theorem hardReset_winByte (s : State) (a b c : Nat) :
    (hardReset s).winByte a b c = Config.winAfterReset (s.epoch + 1) (winIndex a b c) := rfl

theorem step_rst {s : State} {rest : List Event} (h : s.events = .rst :: rest) :
    step s = .next (hardReset (s.setEvents rest)) :=
  (step_cons h).trans (runEvent_rst _)

/-- Settles O2: the step is `hardReset` of the state with the event taken off, whatever the run in
progress was; each part is read off by the rule of its field or memory. -/
theorem rstPutsTheBlockAtItsResetValues : Obligations.RstPutsTheBlockAtItsResetValues := by
  intro s rest h
  exact ⟨hardReset (s.setEvents rest), step_rst h, hardReset_ctrl _, hardReset_status _,
    hardReset_width _, hardReset_height _, hardReset_ksize _, hardReset_srcBase _,
    hardReset_dstBase _, hardReset_kaddr _, hardReset_seq _, hardReset_acc _, hardReset_sample _,
    hardReset_irq _, hardReset_pmemByte _, hardReset_kmemWord _, hardReset_winByte _,
    hardReset_events _, hardReset_cfg _, hardReset_reply _⟩

end Sys2Proof.Machine
